-- ==== Sys2Proof/Word.lean ====
section
/-! DEFINITION. The word types of the block: the 64-bit bus word, the byte, the 22-bit offset of the
host window (R100, R104), the binary64 value and the complex sample (R15, R19). -/

namespace Sys2Proof

/-- One byte of the host window (R105). -/
abbrev Byte := BitVec 8

/-- The 64 bits of one host access, of a command word, of a register or of a LUT entry (R32, R104, R150). -/
abbrev Word := BitVec 64

/-- A byte offset in the 4 MiB host window (R100). -/
abbrev Offset := BitVec 22

/-- An IEEE 754 binary64 value, held as its bits: sign in bit 63, exponent in [62:52], fraction in
[51:0] (R15, R105). A type of its own, so that no integer operation on words is used on it by mistake;
`F64.bits` and `F64.mk` are the spec's `bits(x)` and `f64(v)`. -/
structure F64 where
  bits : BitVec 64
deriving DecidableEq, Repr, Inhabited

/-- A complex sample `(re, im)` (R19). -/
structure Cplx where
  re : F64
  im : F64
deriving DecidableEq, Repr, Inhabited

end Sys2Proof
end

