-- ==== Sys2Proof/Config.lean ====
section
/-! DEFINITION. What one build of the block fixes (R10 to R12) and every value the spec leaves OPEN
(R13, R16, R18, R59, R100, R464; 93_implementation_defined.md I1 to I10). An OPEN value is an `opaque`
constant without a body: nothing about it can be computed or proved here, so a statement proved about
the model holds whatever it is. -/

namespace Sys2Proof

/-- The build-time parameters (R10, R11, R12), as someone may ask for them. -/
structure Params where
  /-- `FFT_LOG2N`, the base-2 logarithm of the FFT size (R10). -/
  fftLog2N : Nat
  /-- `C_IQ`, the slots of the I/Q FIFO; one slot stays empty (R11, R250). -/
  cIq : Nat
  /-- `C_AUD`, the slots of the audio FIFO; one slot stays empty (R11, R260). -/
  cAud : Nat
  /-- `MAX_BLOCK`, the largest `N` a `PROCESS` may request (R12). -/
  maxBlock : Nat
  /-- `WFM_ACC_PERSIST`: the WFM decimation accumulator outlives a command (R12, R385). -/
  wfmAccPersist : Bool
deriving DecidableEq, Repr

/-- The legal values of the build parameters (R10 to R12). -/
def Params.legal (p : Params) : Bool :=
  decide (2 ≤ p.fftLog2N ∧ p.fftLog2N ≤ 16 ∧ 2 ≤ p.cIq ∧ p.cIq ≤ 2 ^ 24 ∧ 2 ≤ p.cAud ∧ p.cAud ≤ 2 ^ 24 ∧
    1 ≤ p.maxBlock ∧ p.maxBlock ≤ 1048575)

/-- One build of the block. There is none with other than legal parameters (R314). The parameters are
not state: no step changes them. -/
structure Build extends Params where
  legal : toParams.legal = true
deriving DecidableEq, Repr

/-- Build the block with the parameters asked for, or refuse to (R314). -/
def Build.ofParams (p : Params) : Option Build := if h : p.legal = true then some { p with legal := h } else none

/-- `FFT_N = 2^FFT_LOG2N` (R10). -/
def Build.fftN (b : Build) : Nat := 2 ^ b.fftLog2N

/-- This hardware's values (R10 to R12; 92_eei_decisions.md D12, D13, D15, D28, D38). -/
def Build.thisHardware : Build :=
  { fftLog2N := 10, cIq := 1048576, cAud := 16384, maxBlock := 65536, wfmAccPersist := true, legal := by decide }

/-- The small configuration of the test vectors (95_test_vectors.md, Conventions). -/
def Build.small : Build :=
  { fftLog2N := 2, cIq := 8, cAud := 8, maxBlock := 16, wfmAccPersist := true, legal := by decide }

/-- The spec's `draw` (R21): the n-th free 64-bit input of a run. It stands for the bits of a NaN that
an operation produces (R16), for a view register read while busy (R59) and for the engine's choice
between a push and the snapshot publish (R464). `State.env.draws` counts the draws made. -/
opaque Config.draw : Nat → BitVec 64

/-- `COS64` on finite non-zero arguments, before R18 is imposed (R13, R18). -/
opaque Config.cosRaw : F64 → F64

/-- `SIN64` on finite non-zero arguments, before R18 is imposed (R13, R18). -/
opaque Config.sinRaw : F64 → F64

/-- `ATAN2_64(y, x)` outside the special cases of R18 (R13, R18). -/
opaque Config.atan2Raw : F64 → F64 → F64

/-- `LOG10_64` on every argument but 1.0 (R13, R18). -/
opaque Config.log10Raw : F64 → F64

/-- `FFT_IMPL` is a parameter whose default is the reference algorithm of R311 (R13, R310). `none` is
that default; `some f` is another algorithm, which may also depend on a free draw number. -/
opaque Config.fftReplacement : Option (Nat → List Cplx → List Cplx)

/-- `BLOCK_BASE`, where the platform puts the host window (R100, R102). -/
opaque Config.blockBase : Nat

end Sys2Proof
end

