-- ==== Sys2Proof/Syntax.lean ====
section
/-! DEFINITION. The commands of the block, one constructor per row of spec/opcode_table.json, and the
names by which a command word is rejected (R156, R603). -/

namespace Sys2Proof

/-- A command (R150 to R159). Its only operands are `N`, `SNAP` and `WTYPE` (R155). -/
inductive Instr where
  /-- `NOP`, OP 0x0, format B (R456). -/
  | nop
  /-- `PROCESS N, SNAP`, OP 0x1, format P (R152, R460). -/
  | process (n : BitVec 20) (snap : Bool)
  /-- `REINIT`, OP 0x2, format B (R370). -/
  | reinit
  /-- `IQ_CLEAR`, OP 0x3, format B (R256). -/
  | iqClear
  /-- `AUD_CLEAR`, OP 0x4, format B (R266). -/
  | audClear
  /-- `WINGEN` with `WTYPE` 0, OP 0x5, format W (R304). -/
  | wingenHann
  /-- `WINGEN` with `WTYPE` 1, OP 0x5, format W (R304). -/
  | wingenHamming
deriving DecidableEq, Repr

/-- Why a `CMD` write is rejected (R603). -/
inductive CmdErr where
  /-- `OP` is 0x6 to 0xF. -/
  | illegalOp
  /-- A reserved bit of the format is 1. -/
  | reserved
  /-- A command is pending or running. -/
  | busy
  /-- `PROCESS` with `N > MAX_BLOCK`. -/
  | nRange
  /-- `WINGEN` with `WTYPE` 2 or 3. -/
  | wtype
deriving DecidableEq, Repr

end Sys2Proof
end

