-- ==== Sys2Proof/Decode.lean ====
section
/-! DEFINITION. Decoding a command word, total on all 2^64 words and rejecting by name (R150 to R158,
R451), and the encoding functions (R159). -/

namespace Sys2Proof

/-- Format B (R154): bits [63:4] are reserved and must be 0. -/
def decodeBare (w : Word) (i : Instr) : Except CmdErr Instr :=
  if w.extractLsb' 4 60 = 0#60 then .ok i else .error .reserved

/-- Format P (R152): `N` is [31:12], `SNAP` is [4]; [63:32] and [11:5] are reserved. -/
def decodeProcess (w : Word) : Except CmdErr Instr :=
  if w.extractLsb' 32 32 = 0#32 ∧ w.extractLsb' 5 7 = 0#7 then
    .ok (.process (w.extractLsb' 12 20) (w.getLsbD 4))
  else .error .reserved

/-- Format W (R153): `WTYPE` is [5:4]; [63:6] are reserved and are checked before `WTYPE` (R451). -/
def decodeWingen (w : Word) : Except CmdErr Instr :=
  if w.extractLsb' 6 58 = 0#58 then
    match (w.extractLsb' 4 2).toNat with
    | 0 => .ok .wingenHann
    | 1 => .ok .wingenHamming
    | _ => .error .wtype
  else .error .reserved

/-- The decoder (R156, R157): `OP = word[3:0]` selects the format, and the first error in the order of
R451 (opcode, reserved bits, `WTYPE`) is the one reported. -/
def decode (w : Word) : Except CmdErr Instr :=
  match (w.extractLsb' 0 4).toNat with
  | 0 => decodeBare w .nop
  | 1 => decodeProcess w
  | 2 => decodeBare w .reinit
  | 3 => decodeBare w .iqClear
  | 4 => decodeBare w .audClear
  | 5 => decodeWingen w
  | _ => .error .illegalOp

/-- The bytes of a word, the one at the lowest offset first (R105). -/
def bytesOfWord (w : Word) : List Byte :=
  [w.extractLsb' 0 8, w.extractLsb' 8 8, w.extractLsb' 16 8, w.extractLsb' 24 8,
   w.extractLsb' 32 8, w.extractLsb' 40 8, w.extractLsb' 48 8, w.extractLsb' 56 8]

/-- The word whose bytes these are, little-endian (R105); only the first eight count. -/
def wordOfBytes (bs : List Byte) : Word :=
  let byteAt (i : Nat) : Word := (bs.getD i 0#8).setWidth 64 <<< (8 * i)
  byteAt 0 ||| byteAt 1 ||| byteAt 2 ||| byteAt 3 ||| byteAt 4 ||| byteAt 5 ||| byteAt 6 ||| byteAt 7

/-- The decoder over the eight bytes of a command word, lowest offset first (R105, R150). -/
def decodeBytes (bs : List Byte) : Except CmdErr Instr := decode (wordOfBytes bs)

/-- The word of an instruction whose table bits are `w`, every bit from `nbits` up being 0. -/
def tableWord (nbits w : Nat) : Word := BitVec.ofNat 64 (w % 2 ^ nbits)

/-- What the decoder reads from the table's bits `w`, laid out as the eight bytes of one bus access. -/
def decodeTableWord (nbits w : Nat) : Option Instr :=
  match decodeBytes (bytesOfWord (tableWord nbits w)) with
  | .ok i => some i
  | .error _ => none

/-- The word a host writes for a command (R159). -/
def encode : Instr → Word
  | .nop => 0x0#64
  | .process n snap => (n.setWidth 64 <<< 12) ||| ((BitVec.ofBool snap).setWidth 64 <<< 4) ||| 0x1#64
  | .reinit => 0x2#64
  | .iqClear => 0x3#64
  | .audClear => 0x4#64
  | .wingenHann => 0x05#64
  | .wingenHamming => 0x15#64

/-- The `ERR_CODE` of a rejected command (R603). -/
def cmdErrCode : CmdErr → BitVec 4
  | .illegalOp => 1#4
  | .reserved => 2#4
  | .busy => 3#4
  | .nRange => 4#4
  | .wtype => 5#4

end Sys2Proof
end

