-- ==== Sys2Proof/Machine/State.lean ====
section
/-! DEFINITION. The state of the block (10_state.md), as plain data, and its value after reset (R701). -/

namespace Sys2Proof.Machine

/-- The demodulation mode; the codes of `MODE` are in `modeCode` (R49). -/
inductive Mode where
  | am | nfm | wfm | lsb | usb | off
deriving DecidableEq, Repr

/-- The DSP state `S.dsp` (R62). -/
structure Dsp where
  /-- NCO phase accumulator, radians in [0, 2π) (R354). -/
  phi : F64
  /-- Channel filter state (R356). -/
  ch : Cplx
  /-- Previous sample of the phase discriminator, shared by NFM and WFM (R376, R380). -/
  prev : Cplx
  /-- De-emphasis filter state (R381). -/
  de : F64
  /-- AM DC-blocker average (R375). -/
  dcAm : F64
  /-- WFM DC-blocker average (R383). -/
  dcWfm : F64
  /-- Audio post-filter state (R390). -/
  post : F64
  /-- WFM decimation accumulator (R382). -/
  wacc : F64
  /-- WFM decimation counter (R382). -/
  wcnt : Nat
  /-- Input rate the state was built for (R371). -/
  curIn : BitVec 32
  /-- Output rate the state was built for (R371). -/
  curOut : BitVec 32
deriving DecidableEq, Repr

/-- The context a command latches at its issue (R61, R450). The contents of `WIN_LUT` and `PALETTE`
are not copied: they cannot change while the command is busy, and R61 lets a model read them live. -/
structure Ctx where
  op : BitVec 4
  nreq : BitVec 20
  snap : Bool
  wtype : BitVec 2
  inRate : BitVec 32
  outRate : BitVec 32
  f : F64
  bw : F64
  mode : Mode
  volume : F64
  mute : Bool
  deemphHz : F64
  audioHz : F64
  dbMin : F64
  dbMax : F64
deriving DecidableEq, Repr

/-- The run record of a `PROCESS` that has started (R462). -/
structure Run where
  ctx : Ctx
  /-- The consumed samples. -/
  blk : List Cplx
  /-- The audio samples, in output order. -/
  outs : List F64
  /-- How many of `outs` have been pushed. -/
  next : Nat
  /-- The snapshot is still to be published. -/
  snapPending : Bool
deriving DecidableEq, Repr

/-- The command sequencer `S.seq` (R60); it stands where a program counter would (R31). -/
inductive Seq where
  | idle
  | pending (c : Ctx)
  | running (r : Run)
deriving DecidableEq, Repr

/-- One atomic step of an agent other than the engine, or of the reset input (R20, R700). -/
inductive Event where
  /-- `HOST`: `MemRead(off, 8)` (R201). -/
  | hostRead (off : Offset)
  /-- `HOST`: `MemWrite(off, 8, v)` (R202). -/
  | hostWrite (off : Offset) (v : Word)
  /-- `PROD`: one sample on the capture port (R253). -/
  | prodPush (x : Cplx)
  /-- `CONS`: one pop on the audio port (R264). -/
  | consPop
  /-- The platform's reset input (R700). -/
  | reset
deriving DecidableEq, Repr

/-- Whose step comes next in the total order of R110. -/
inductive Turn where
  | engine
  | outside (e : Event)
deriving DecidableEq, Repr

/-- The MODEL's own fields, not the block's: what the outside does and what it was given. -/
structure Env where
  /-- The steps still to come, first first; when it is empty the engine steps (R20, R110, R454). -/
  turns : List Turn
  /-- How many free values have been drawn; the next one is `Config.draw draws` (R21). -/
  draws : Nat
  /-- The 64 bits the last host read returned (R201). -/
  busData : Word
  /-- The last sample the audio port delivered (R264). -/
  audioOut : F64
deriving DecidableEq, Repr

/-- The state of the block. The registers `ID`, `FFT_SIZE`, `IQ_DEPTH`, `AUD_DEPTH`, `MAXBLK` are
constants of the build (R33 to R37), and `STATUS`, `IQ_COUNT`, `AUD_COUNT`, `DECIM` and the other views
are computed from these fields (R203). -/
structure State where
  /-- Which build this is, a legal one (R314); no step changes it (R10 to R12). -/
  build : Build
  /-- `S.seq` (R60). -/
  seq : Seq
  /-- `S.flags`, the seven W1C bits of `STATUS`: bit j here is bit j+1 of `STATUS` (R40, R64). -/
  flags : BitVec 7
  /-- `S.err_code`, `STATUS.ERR_CODE` (R40, R64). -/
  errCode : BitVec 4
  /-- `S.err_addr`, `ERR_ADDR` (R42, R64). -/
  errAddr : Word
  /-- `S.last_cmd`, what `CMD` reads (R39, R64). -/
  lastCmd : Word
  /-- `S.last_n`, `LAST_N` (R43, R64). -/
  lastN : Nat
  /-- `S.last_m`, `LAST_M` (R44, R64). -/
  lastM : Nat
  /-- `S.mute`, `CTRL.MUTE` (R38, R64). -/
  mute : Bool
  /-- `S.irq_en`: bit j here is bit j+1 of `IRQ_EN` (R41, R64). -/
  irqEn : BitVec 7
  /-- `IN_RATE` (R45). -/
  inRate : BitVec 32
  /-- `OUT_RATE` (R46). -/
  outRate : BitVec 32
  /-- `FREQ_OFFSET` (R47). -/
  freqOffset : F64
  /-- `BANDWIDTH` (R48). -/
  bandwidth : F64
  /-- `MODE` (R49). -/
  mode : Mode
  /-- `VOLUME` (R50). -/
  volume : F64
  /-- `DEEMPH_HZ` (R51). -/
  deemphHz : F64
  /-- `AUDIO_LPF_HZ` (R52). -/
  audioLpfHz : F64
  /-- `DB_MIN` (R53). -/
  dbMin : F64
  /-- `DB_MAX` (R54). -/
  dbMax : F64
  /-- `S.push_re`, the `IQ_PUSH_RE` latch (R56, R64). -/
  pushRe : F64
  /-- `S.iqf`, the I/Q FIFO, oldest first (R63). -/
  iqf : List Cplx
  /-- `S.audf`, the audio FIFO, oldest first (R63). -/
  audf : List F64
  /-- `S.iq_drops`, `IQ_DROPS` (R55, R64). -/
  iqDrops : Word
  /-- `S.aud_drops`, `AUD_DROPS` (R57, R64). -/
  audDrops : Word
  /-- `S.aud_unf`, `AUD_UNDERRUNS` (R57, R64). -/
  audUnf : Word
  /-- `S.snap_seq`, `SNAP_SEQ` (R59, R64). -/
  snapSeq : Word
  /-- `S.dsp` (R62). -/
  dsp : Dsp
  /-- The LUT memories `WIN_LUT`, `PALETTE`, `SPECTRUM`, `WF_ROW` (R65) as bytes of the host window
  (R101, R105): the bytes that differ from their reset content, by rising offset. -/
  mem : List Host.Cell
  /-- The model's own fields. -/
  env : Env
deriving DecidableEq, Repr

/-- Why a step can stop. The block itself never stops (R600, R612): its errors are recorded in
`STATUS` and the run goes on. -/
inductive Fault where
  /-- Raised by `step` alone, when the sequencer holds a pending context that no accepted command word
  latches (an illegal opcode, say). Issue never latches one (R450, R451), so no run reaches it; safe. -/
  | notACommand (reason : CmdErr)
deriving DecidableEq, Repr

/-- Why a step is refused. -/
inductive Refusal where
  /-- An instruction without a meaning; no arm of `exec` raises it any more. Safe. -/
  | notModelled (mnemonic : String)
deriving DecidableEq, Repr

/-- `Reset()` (R701) for a build. The model's own fields are not the block's: `resetFor` gives them the
values they have when a run begins (notes/assumptions/2.md). -/
def State.resetFor (b : Build) : State :=
  { build := b
    seq := .idle
    flags := 0#7
    errCode := 0#4
    errAddr := 0#64
    lastCmd := 0#64
    lastN := 0
    lastM := 0
    mute := false
    irqEn := 0#7
    inRate := 2048000#32
    outRate := 48000#32
    freqOffset := ⟨0x0000000000000000#64⟩
    bandwidth := ⟨0x40C7700000000000#64⟩
    mode := .off
    volume := ⟨0x3FF0000000000000#64⟩
    deemphHz := ⟨0x40A0680000000000#64⟩
    audioLpfHz := ⟨0x40CF400000000000#64⟩
    dbMin := ⟨0xC059000000000000#64⟩
    dbMax := ⟨0x0000000000000000#64⟩
    pushRe := ⟨0x0000000000000000#64⟩
    iqf := []
    audf := []
    iqDrops := 0#64
    audDrops := 0#64
    audUnf := 0#64
    snapSeq := 0#64
    dsp :=
      { phi := ⟨0x0000000000000000#64⟩
        ch := ⟨⟨0x0000000000000000#64⟩, ⟨0x0000000000000000#64⟩⟩
        prev := ⟨⟨0x0000000000000000#64⟩, ⟨0x0000000000000000#64⟩⟩
        de := ⟨0x0000000000000000#64⟩
        dcAm := ⟨0x0000000000000000#64⟩
        dcWfm := ⟨0x0000000000000000#64⟩
        post := ⟨0x0000000000000000#64⟩
        wacc := ⟨0x0000000000000000#64⟩
        wcnt := 0
        curIn := 2048000#32
        curOut := 48000#32 }
    mem := []
    env := { turns := [], draws := 0, busData := 0#64, audioOut := ⟨0x0000000000000000#64⟩ } }

/-- The block right after reset with the parameters asked for; refused unless they are legal (R314). -/
def State.resetOf (p : Params) : Option State := (Build.ofParams p).map State.resetFor

/-- The machine right after reset (R701), with this hardware's build parameters. -/
def State.reset : State := State.resetFor Build.thisHardware

end Sys2Proof.Machine
end

