-- ==== Sys2Proof/Machine/Flags.lean ====
section
/-! DEFINITION. The block's only flags: the seven sticky W1C bits of `STATUS` (R40, R66, R611), how they
are set and cleared (R205), the `STATUS` word, the error codes (R603, R608), the interrupt line (R610)
and the codes of `MODE` (R49). The block has no arithmetic condition codes (R66). -/

namespace Sys2Proof.Machine

/-- The sticky flags, which are also the interrupt sources (R611). -/
inductive Source where
  | done | wfDirty | iqOvf | audOvf | audUnf | cmdErr | busErr
deriving DecidableEq, Repr

/-- The bit of a flag in `STATUS` and `IRQ_EN` (R40, R611). -/
def sourceBit : Source → Nat
  | .done => 1
  | .wfDirty => 2
  | .iqOvf => 3
  | .audOvf => 4
  | .audUnf => 5
  | .cmdErr => 6
  | .busErr => 7

/-- A flag's bit in `State.flags`, which holds bits [7:1]. -/
def sourceMask (f : Source) : BitVec 7 := 1#7 <<< (sourceBit f - 1)

/-- `STATUS` bit of a flag. -/
def State.flag (s : State) (f : Source) : Bool := s.flags.getLsbD (sourceBit f - 1)

/-- `IRQ_EN` bit of a source. -/
def State.enabled (s : State) (f : Source) : Bool := s.irqEn.getLsbD (sourceBit f - 1)

/-- `S.flags.F <- 1`. -/
def setFlag (f : Source) (s : State) : State := { s with flags := s.flags ||| sourceMask f }

/-- The W1C write of `STATUS`: each of bits 1 to 7 of `v` that is 1 clears its flag (R205). -/
def clearFlags (v : Word) (s : State) : State := { s with flags := s.flags &&& ~~~(v.extractLsb' 1 7) }

/-- `STATUS.BUSY`: the sequencer is not idle (R60). -/
def State.busy (s : State) : Bool :=
  match s.seq with
  | .idle => false
  | .pending _ => true
  | .running _ => true

/-- What a read of `STATUS` returns (R40, R203). -/
def State.status (s : State) : Word :=
  (s.errCode.setWidth 64 <<< 8) ||| (s.flags.setWidth 64 <<< 1) ||| (BitVec.ofBool s.busy).setWidth 64

/-- The interrupt line: the OR of the enabled sticky flags (R610). -/
def State.irq (s : State) : Bool := (s.flags &&& s.irqEn) != 0#7

/-- Why a host access is a bus error (R608). -/
inductive BusErr where
  /-- `off mod 8 != 0`. -/
  | align
  /-- The offset lies in an unmapped row of R101. -/
  | unmapped
  /-- A write to a read-only register or LUT. -/
  | readOnly
  /-- A write to `WIN_LUT` or `PALETTE` while busy. -/
  | lutBusy
deriving DecidableEq, Repr

/-- The `ERR_CODE` of a bus error (R608). -/
def busErrCode : BusErr → BitVec 4
  | .align => 8#4
  | .unmapped => 9#4
  | .readOnly => 10#4
  | .lutBusy => 11#4

/-- The code of a mode in `MODE` (R49). -/
def modeCode : Mode → BitVec 3
  | .am => 0#3
  | .nfm => 1#3
  | .wfm => 2#3
  | .lsb => 3#3
  | .usb => 4#3
  | .off => 5#3

/-- The mode that `v[2:0]` names; 6 and 7 name none (R49). -/
def modeOfCode (c : BitVec 3) : Option Mode :=
  match c.toNat with
  | 0 => some .am
  | 1 => some .nfm
  | 2 => some .wfm
  | 3 => some .lsb
  | 4 => some .usb
  | 5 => some .off
  | _ => none

end Sys2Proof.Machine
end

