-- ==== Sys2Proof/Machine/Float.lean ====
section
/-! DEFINITION. IEEE 754 binary64 arithmetic as R15 asks for it: round to nearest, ties to even, each
operation rounded once; NaN results drawn (R16); the named constants (R17); the configuration functions
with the properties of R18; complex arithmetic (R19) and `clamp` (R22).

An operation computes the exact result as a natural number of units of 2^-1074 (the least positive
binary64), or as a ratio of two such numbers, and `roundBits` rounds it. -/

namespace Sys2Proof.Machine

/-- A computation that may draw free values: it takes the number of draws made so far and gives its
result and the new number (R21 `draw`). -/
abbrev Draw := StateM Nat

/-! ### Constants (R17) -/

def fZero : F64 := ⟨0x0000000000000000#64⟩
def fOne : F64 := ⟨0x3FF0000000000000#64⟩
def fMinusOne : F64 := ⟨0xBFF0000000000000#64⟩
def fTwo : F64 := ⟨0x4000000000000000#64⟩
def fTwenty : F64 := ⟨0x4034000000000000#64⟩
def fTwoPi : F64 := ⟨0x401921FB54442D18#64⟩
def f0p995 : F64 := ⟨0x3FEFD70A3D70A3D7#64⟩
def f0p005 : F64 := ⟨0x3F747AE147AE147B#64⟩
def f0p7 : F64 := ⟨0x3FE6666666666666#64⟩
def f0p3 : F64 := ⟨0x3FD3333333333333#64⟩
def f0p5 : F64 := ⟨0x3FE0000000000000#64⟩
def f0p54 : F64 := ⟨0x3FE147AE147AE148#64⟩
def f0p46 : F64 := ⟨0x3FDD70A3D70A3D71#64⟩
def fFour : F64 := ⟨0x4010000000000000#64⟩
def f255 : F64 := ⟨0x406FE00000000000#64⟩
def fMagFloor : F64 := ⟨0x3DDB7CDFD9D7BDBB#64⟩
def fDbFloor : F64 := ⟨0xC069000000000000#64⟩
def f0p8 : F64 := ⟨0x3FE999999999999A#64⟩
def fMinus0p8 : F64 := ⟨0xBFE999999999999A#64⟩
/-- π, π/2, π/4 and 3π/4 rounded, the values of `atan2` at its special cases (R18). R18 gives the bits
of π/2; the others are PRESUMED from IEEE 754-2019 §9.2.1, which R18 names (notes/assumptions/5.md). -/
def fPi : F64 := ⟨0x400921FB54442D18#64⟩
def fHalfPi : F64 := ⟨0x3FF921FB54442D18#64⟩
def fQuarterPi : F64 := ⟨0x3FE921FB54442D18#64⟩
def fThreeQuarterPi : F64 := ⟨0x4002D97C7F3321D2#64⟩
def cZero : Cplx := ⟨fZero, fZero⟩

/-! ### The value a bit pattern stands for -/

/-- The classes of binary64 values. A finite value is a sign and a magnitude in units of 2^-1074. -/
inductive FVal where
  | nan
  | inf (neg : Bool)
  | fin (neg : Bool) (mag : Nat)
deriving DecidableEq, Repr

/-- The sign bit. -/
def fsign (x : F64) : Bool := x.bits.getLsbD 63

/-- The exponent field [62:52]. -/
def fexp (x : F64) : Nat := (x.bits.extractLsb' 52 11).toNat

/-- The fraction field [51:0]. -/
def ffrac (x : F64) : Nat := (x.bits.extractLsb' 0 52).toNat

/-- `isNaN(x)` (R15). -/
def isNaN (x : F64) : Bool := fexp x == 2047 && ffrac x != 0

/-- What the bits of `x` stand for. -/
def fval (x : F64) : FVal :=
  if fexp x = 2047 then (if ffrac x = 0 then .inf (fsign x) else .nan)
  else if fexp x = 0 then .fin (fsign x) (ffrac x)
  else .fin (fsign x) ((2 ^ 52 + ffrac x) <<< (fexp x - 1))

/-- A value from its sign and its lower 63 bits. -/
def withSign (neg : Bool) (mag : Nat) : F64 :=
  ⟨BitVec.ofNat 64 ((if neg then 2 ^ 63 else 0) + mag)⟩

/-- A signed infinity. -/
def fInf (neg : Bool) : F64 := withSign neg (2047 * 2 ^ 52)

/-- The lower 63 bits of the binary64 nearest to `n / d` units of 2^-1074, ties to even, overflow to
infinity (R15). With `sh` the excess of the quotient over 53 bits, `m` counts the units of
`2^sh`; `sh * 2^52 + m` is the encoding, subnormals and the carry into the exponent included. -/
def roundBits (n d : Nat) : Nat :=
  let sh := (Nat.log2 (n / d) + 1) - 53
  let den := d <<< sh
  let m := n / den
  let r := n % den
  let m' := if den < 2 * r ∨ (2 * r = den ∧ m % 2 = 1) then m + 1 else m
  min (sh * 2 ^ 52 + m') (2047 * 2 ^ 52)

/-- The binary64 nearest to `± n / d` units of 2^-1074. -/
def fround (neg : Bool) (n d : Nat) : F64 := withSign neg (roundBits n d)

/-! ### NaN results -/

/-- The NaN that a drawn word stands for: the word itself when it is a NaN, so that every NaN is
possible, and some NaN when it is not. -/
def nanOf (w : Word) : F64 := if isNaN ⟨w⟩ then ⟨w⟩ else ⟨0x7FF8000000000000#64⟩

/-- One free 64-bit value (R21). -/
def drawWord : Draw Word := fun d => (Config.draw d, d + 1)

/-- A NaN of any pattern (R16). -/
def drawNaN : Draw F64 := fun d => (nanOf (Config.draw d), d + 1)

/-- The result of an operation: `none` stands for some NaN, which is drawn (R16). -/
def orNaN (r : Option F64) : Draw F64 :=
  match r with
  | some x => pure x
  | none => drawNaN

/-! ### Arithmetic (R15); `none` is a NaN result -/

/-- `-x` flips the sign bit exactly (R15). -/
def fneg (x : F64) : F64 := ⟨x.bits ^^^ 0x8000000000000000#64⟩

/-- `x + y`. An exact zero sum is +0 unless both operands are -0. -/
def addResult (x y : F64) : Option F64 :=
  match fval x, fval y with
  | .nan, _ => none
  | _, .nan => none
  | .inf s, .inf t => if s = t then some (fInf s) else none
  | .inf s, .fin _ _ => some (fInf s)
  | .fin _ _, .inf t => some (fInf t)
  | .fin s a, .fin t b =>
    if s = t then some (fround s (a + b) 1)
    else if b < a then some (fround s (a - b) 1)
    else if a < b then some (fround t (b - a) 1)
    else some fZero

/-- `x - y` is `x + (-y)`; a NaN operand gives a NaN either way. -/
def subResult (x y : F64) : Option F64 := addResult x (fneg y)

/-- `x * y`. Zero times infinity is a NaN. -/
def mulResult (x y : F64) : Option F64 :=
  match fval x, fval y with
  | .nan, _ => none
  | _, .nan => none
  | .inf s, .inf t => some (fInf (s != t))
  | .inf s, .fin t b => if b = 0 then none else some (fInf (s != t))
  | .fin s a, .inf t => if a = 0 then none else some (fInf (s != t))
  | .fin s a, .fin t b => some (fround (s != t) (a * b) (1 <<< 1074))

/-- `x / y`. `0/0` and `inf/inf` are NaNs; a finite non-zero value over zero is an infinity. -/
def divResult (x y : F64) : Option F64 :=
  match fval x, fval y with
  | .nan, _ => none
  | _, .nan => none
  | .inf _, .inf _ => none
  | .inf s, .fin t _ => some (fInf (s != t))
  | .fin s _, .inf t => some (withSign (s != t) 0)
  | .fin s a, .fin t b =>
    if b = 0 then (if a = 0 then none else some (fInf (s != t)))
    else some (fround (s != t) (a <<< 1074) b)

/-- The integer square root of `n < 4^k`, one binary digit a level. -/
def isqrt : Nat → Nat → Nat
  | 0, _ => 0
  | k + 1, n =>
    let r := 2 * isqrt k (n / 4)
    if (r + 1) * (r + 1) ≤ n then r + 1 else r

/-- `sqrt(x)` of a positive finite `mag`: with `N = mag * 2^1074` the result is `sqrt N` units. `N` is
cut to at most 111 bits by an even shift, so that the root keeps at least two bits more than a
significand; a half unit stands for the part cut off. -/
def sqrtMag (mag : Nat) : F64 :=
  let big := mag <<< 1074
  let k := (Nat.log2 big + 1 - 110) / 2
  let q := isqrt 56 (big >>> (2 * k))
  let exact := (q * q) <<< (2 * k) = big
  fround false ((2 * q + if exact then 0 else 1) <<< k) 2

/-- `sqrt(x)`: `sqrt(±0) = ±0`, and a negative value has a NaN root. -/
def sqrtResult (x : F64) : Option F64 :=
  match fval x with
  | .nan => none
  | .inf s => if s then none else some (fInf false)
  | .fin s a => if a = 0 then some x else if s then none else some (sqrtMag a)

/-- `fmod(p, q)`, the exact `p - q * trunc(p/q)` with the sign of `p` (R353). -/
def fmodResult (p q : F64) : Option F64 :=
  match fval p, fval q with
  | .fin s a, .fin _ b => if b = 0 then none else some (fround s (a % b) 1)
  | .fin _ _, .inf _ => some p
  | _, _ => none

def fadd (x y : F64) : Draw F64 := orNaN (addResult x y)
def fsub (x y : F64) : Draw F64 := orNaN (subResult x y)
def fmul (x y : F64) : Draw F64 := orNaN (mulResult x y)
def fdiv (x y : F64) : Draw F64 := orNaN (divResult x y)
def fsqrt (x : F64) : Draw F64 := orNaN (sqrtResult x)
def fmod (p q : F64) : Draw F64 := orNaN (fmodResult p q)

/-- The place of a value on the number line; both zeros are at 0, and infinities lie outside every
finite value. Of no meaning for a NaN. -/
def fkey (x : F64) : Int :=
  if fsign x then -((x.bits.toNat % 2 ^ 63 : Nat) : Int) else ((x.bits.toNat % 2 ^ 63 : Nat) : Int)

/-- `x < y`: false when an operand is NaN (R15). -/
def flt (x y : F64) : Bool := !isNaN x && !isNaN y && decide (fkey x < fkey y)

/-- `x <= y`: false when an operand is NaN (R15). -/
def fle (x y : F64) : Bool := !isNaN x && !isNaN y && decide (fkey x ≤ fkey y)

/-- `x == y`: false when an operand is NaN, and `+0 == -0` (R15). -/
def feq (x y : F64) : Bool := !isNaN x && !isNaN y && decide (fkey x = fkey y)

/-- `float(k)`, exact for `k < 2^53` (R15). -/
def float (k : Nat) : F64 := fround false (k <<< 1074) 1

/-- `floor_f(x)` for a finite `x >= 0` (R15); 0 elsewhere, where R15 does not define it and no rule
uses it. -/
def floorF (x : F64) : Nat :=
  match fval x with
  | .fin false a => a >>> 1074
  | _ => 0

/-- `clamp(x, lo, hi)`; a NaN passes (R22). -/
def clamp (x lo hi : F64) : F64 := if flt hi x then hi else if flt x lo then lo else x

/-! ### Configuration functions (R13) with the properties of R18 -/

/-- A value of a configuration function; a NaN value is drawn (R16). -/
def drawIfNaN (x : F64) : Draw F64 := if isNaN x then drawNaN else pure x

/-- A value that R18 puts into [-1, 1]: every such value is possible, since the raw function is free. -/
def inUnit (x : F64) : F64 := if fle fMinusOne x && fle x fOne then x else fZero

/-- `COS64` (R18): 1 at both zeros, NaN for NaN or infinite input, in [-1, 1] elsewhere. -/
def cos64 (x : F64) : Draw F64 :=
  match fval x with
  | .fin _ a => if a = 0 then pure fOne else pure (inUnit (Config.cosRaw x))
  | _ => drawNaN

/-- `SIN64` (R18): `±0` at `±0`, NaN for NaN or infinite input, in [-1, 1] elsewhere. -/
def sin64 (x : F64) : Draw F64 :=
  match fval x with
  | .fin _ a => if a = 0 then pure x else pure (inUnit (Config.sinRaw x))
  | _ => drawNaN

/-- The magnitude of `m` with the sign `neg`, for a positive constant `m`. -/
def signed (neg : Bool) (m : F64) : F64 := if neg then fneg m else m

/-- `ATAN2_64(y, x)` (R18): the special cases of IEEE 754-2019 §9.2.1, any value elsewhere. -/
def atan2 (y x : F64) : Draw F64 :=
  match fval y, fval x with
  | .nan, _ => drawNaN
  | _, .nan => drawNaN
  | .inf s, .inf t => pure (signed s (if t then fThreeQuarterPi else fQuarterPi))
  | .inf s, .fin _ _ => pure (signed s fHalfPi)
  | .fin s a, .inf t =>
    if a = 0 then pure (if t then signed s fPi else y)
    else pure (if t then signed s fPi else withSign s 0)
  | .fin s a, .fin t b =>
    if a = 0 then pure (if t then signed s fPi else y)
    else if b = 0 then pure (signed s fHalfPi)
    else drawIfNaN (Config.atan2Raw y x)

/-- `LOG10_64` (R18): +0 at 1.0, any value elsewhere. -/
def log10 (x : F64) : Draw F64 := if x = fOne then pure fZero else drawIfNaN (Config.log10Raw x)

/-! ### Complex arithmetic (R19) -/

/-- `cmul(a, b)`: four products and two sums, each rounded once, in the order of R19. -/
def cmul (a b : Cplx) : Draw Cplx := do
  let rr ← fmul a.re b.re
  let ii ← fmul a.im b.im
  let re ← fsub rr ii
  let ri ← fmul a.re b.im
  let ir ← fmul a.im b.re
  let im ← fadd ri ir
  pure ⟨re, im⟩

/-- `conj(b)`. -/
def conj (b : Cplx) : Cplx := ⟨b.re, fneg b.im⟩

def cadd (a b : Cplx) : Draw Cplx := do
  let re ← fadd a.re b.re
  let im ← fadd a.im b.im
  pure ⟨re, im⟩

def csub (a b : Cplx) : Draw Cplx := do
  let re ← fsub a.re b.re
  let im ← fsub a.im b.im
  pure ⟨re, im⟩

/-- `(a.re * w, a.im * w)` (R19, R301). -/
def cscale (a : Cplx) (w : F64) : Draw Cplx := do
  let re ← fmul a.re w
  let im ← fmul a.im w
  pure ⟨re, im⟩

end Sys2Proof.Machine
end

