-- ==== Sys2Proof/Machine/Window.lean ====
section
/-! DEFINITION. The generated contents of the LUT memories: the Hann and Hamming windows (R302, R303),
the reset palette (R507), where each LUT lies in the host window (R101) and the byte that each offset
of a LUT holds right after reset (R65, R701). -/

namespace Sys2Proof.Machine

/-- `ang_k = (TWO_PI * float(k)) / float(FFT_N - 1)` (R302). -/
def windowAngle (b : Build) (k : Nat) : Draw F64 := do
  let p ← fmul fTwoPi (float k)
  fdiv p (float (b.fftN - 1))

/-- `a0 - a1 * COS64(ang_k)`, the form of both windows. -/
def raisedCosine (a0 a1 : F64) (b : Build) (k : Nat) : Draw F64 := do
  let ang ← windowAngle b k
  let c ← cos64 ang
  let p ← fmul a1 c
  fsub a0 p

/-- `W_h[k]` (R302). None of its operations gives a NaN, so the draw number it starts from does not
matter (notes/assumptions/6.md). -/
def hann (b : Build) (k : Nat) : F64 := (raisedCosine f0p5 f0p5 b k 0).1

/-- `W_m[k]` (R303). -/
def hamming (b : Build) (k : Nat) : F64 := (raisedCosine f0p54 f0p46 b k 0).1

/-- The reset palette: an opaque grayscale ramp (R507). -/
def grayscale (i : Nat) : Word :=
  BitVec.ofNat 64 (0xFF000000 ||| (i <<< 16) ||| (i <<< 8) ||| i)

/-- The offset of `PALETTE[0]` (R101). -/
def paletteBase : Nat := 0x010000
/-- The offset of `WIN_LUT[0]` (R101). -/
def winLutBase : Nat := 0x100000
/-- The offset of `SPECTRUM[0]` (R101). -/
def spectrumBase : Nat := 0x180000
/-- The offset of `WF_ROW[0]` (R101). -/
def wfRowBase : Nat := 0x200000

/-- Byte `i` of a word, little-endian (R105). -/
def byteOf (w : Word) (i : Nat) : Byte := w.extractLsb' (8 * i) 8

/-- What the byte at an offset reads as when nothing has written it: the reset content of the LUT it
lies in (R65, R305, R507, R701), and 0 elsewhere, where there is no memory (R101). -/
def resetByte (b : Build) (a : Nat) : Byte :=
  if paletteBase ≤ a ∧ a < paletteBase + 8 * 256 then
    byteOf (grayscale ((a - paletteBase) / 8)) (a % 8)
  else if winLutBase ≤ a ∧ a < winLutBase + 8 * b.fftN then
    byteOf (hann b ((a - winLutBase) / 8)).bits (a % 8)
  else 0#8

end Sys2Proof.Machine
end

