-- ==== Sys2Proof/Machine/Ops.lean ====
section
/-! DEFINITION. The named operations of the block: the LUT memory (R65, R105), the two FIFOs (R250 to
R267), the fresh DSP state (R370), the two error actions (R601, R602), which are all this block has of
taking an exception (R612; there is no return, R613), and completion (R455). -/

namespace Sys2Proof.Machine

/-! ### LUT memory: bytes that differ from their reset content, by rising offset -/

/-- The listed byte at an offset. -/
def lookup : List Host.Cell → Nat → Option Byte
  | [], _ => none
  | (k, v) :: m, a => if k = a then some v else lookup m a

/-- The byte at an offset of the host window (R105): an unlisted one holds its reset content. -/
def readByte (b : Build) (m : List Host.Cell) (a : Nat) : Byte := (lookup m a).getD (resetByte b a)

/-- List a byte, keeping the offsets rising. -/
def insertCell : List Host.Cell → Nat → Byte → List Host.Cell
  | [], a, v => [(a, v)]
  | (k, w) :: m, a, v =>
    if a < k then (a, v) :: (k, w) :: m
    else if a = k then (a, v) :: m
    else (k, w) :: insertCell m a v

/-- Unlist a byte. -/
def eraseCell : List Host.Cell → Nat → List Host.Cell
  | [], _ => []
  | (k, w) :: m, a => if k = a then m else (k, w) :: eraseCell m a

/-- Write one byte; a byte put back to its reset content is unlisted. -/
def writeByte (b : Build) (m : List Host.Cell) (a : Nat) (v : Byte) : List Host.Cell :=
  if v = resetByte b a then eraseCell m a else insertCell m a v

/-- The offsets rise strictly from `lo` on, and no listed byte equals its reset content. -/
def wfFrom (b : Build) : Nat → List Host.Cell → Bool
  | _, [] => true
  | lo, (k, v) :: m => decide (lo ≤ k) && (v != resetByte b k) && wfFrom b (k + 1) m

/-- The canonical form of the LUT memory: equal memories are equal lists. -/
def Memory.wf (b : Build) (m : List Host.Cell) : Bool := wfFrom b 0 m

/-- The 64-bit entry at an offset, little-endian (R105). -/
def readWord (b : Build) (m : List Host.Cell) (a : Nat) : Word :=
  wordOfBytes ((List.range 8).map fun i => readByte b m (a + i))

/-- Store a 64-bit entry, little-endian (R105). -/
def writeWord (b : Build) (m : List Host.Cell) (a : Nat) (v : Word) : List Host.Cell :=
  (List.range 8).foldl (fun m i => writeByte b m (a + i) (byteOf v i)) m

/-- Store consecutive entries from an offset on, at 8-byte stride (R65). -/
def writeWords (b : Build) : List Host.Cell → Nat → List Word → List Host.Cell
  | m, _, [] => m
  | m, a, v :: vs => writeWords b (writeWord b m a v) (a + 8) vs

/-- `S.win[k]`. -/
def State.win (s : State) (k : Nat) : F64 := ⟨readWord s.build s.mem (winLutBase + 8 * k)⟩

/-- `S.palette[i]`: an RGBA32 entry; bits [63:32] read 0 (R65). -/
def State.palette (s : State) (i : Nat) : Word :=
  ((readWord s.build s.mem (paletteBase + 8 * i)).setWidth 32).setWidth 64

/-- `S.spectrum[k]`. -/
def State.spectrum (s : State) (k : Nat) : F64 := ⟨readWord s.build s.mem (spectrumBase + 8 * k)⟩

/-- `S.wf_row[k]`: an RGBA32 entry; bits [63:32] read 0 (R65). -/
def State.wfRow (s : State) (k : Nat) : Word :=
  ((readWord s.build s.mem (wfRowBase + 8 * k)).setWidth 32).setWidth 64

/-- Put a window into `WIN_LUT` (R304). -/
def loadWindow (w : Build → Nat → F64) (s : State) : State :=
  { s with mem := writeWords s.build s.mem winLutBase ((List.range s.build.fftN).map fun k => (w s.build k).bits) }

/-! ### FIFOs, oldest first -/

/-- Push onto a FIFO of `slots` slots, one of which stays empty: a full FIFO drops its oldest sample
(R251, R261). The second component says whether it did. -/
def fifoPush {α : Type} (slots : Nat) (q : List α) (x : α) : List α × Bool :=
  if q.length = slots - 1 then (q.drop 1 ++ [x], true) else (q ++ [x], false)

/-- `Push(IQF, x)` (R251). -/
def iqPush (x : Cplx) (s : State) : State :=
  let r := fifoPush s.build.cIq s.iqf x
  if r.2 then setFlag .iqOvf { s with iqf := r.1, iqDrops := s.iqDrops + 1#64 }
  else { s with iqf := r.1 }

/-- `Push(AUDF, v)` (R261). -/
def audPush (v : F64) (s : State) : State :=
  let r := fifoPush s.build.cAud s.audf v
  if r.2 then setFlag .audOvf { s with audf := r.1, audDrops := s.audDrops + 1#64 }
  else { s with audf := r.1 }

/-- `Pop(AUDF)` (R265): an empty FIFO delivers +0.0 and records the underrun. -/
def audPop (s : State) : F64 × State :=
  match s.audf with
  | [] => (fZero, setFlag .audUnf { s with audUnf := s.audUnf + 1#64 })
  | v :: q => (v, { s with audf := q })

/-! ### Errors (R600): recorded by the step that causes them, with no other effect -/

/-- `raise CmdError(code)` (R601). -/
def cmdError (e : CmdErr) (s : State) : State := setFlag .cmdErr { s with errCode := cmdErrCode e }

/-- `raise BusError(code, off)` (R602). -/
def busError (e : BusErr) (off : Offset) (s : State) : State :=
  setFlag .busErr { s with errCode := busErrCode e, errAddr := off.setWidth 64 }

/-! ### The command sequencer and the DSP state -/

/-- `Complete()` (R455). -/
def complete (s : State) : State := setFlag .done { s with seq := .idle }

/-- `Fresh(rin, rout)` (R370). -/
def fresh (rin rout : BitVec 32) : Dsp :=
  { phi := fZero, ch := cZero, prev := cZero, de := fZero, dcAm := fZero, dcWfm := fZero, post := fZero
    wacc := fZero, wcnt := 0, curIn := rin, curOut := rout }

/-- `D(rin, rout)` (R357). -/
def decimation (rin rout : BitVec 32) : Nat :=
  if rout.toNat = 0 then 1 else max 1 (rin.toNat / rout.toNat)

/-- The next free value of the run, and the state that has drawn it (R21). -/
def State.draw (s : State) : Word × State :=
  (Config.draw s.env.draws, { s with env := { s.env with draws := s.env.draws + 1 } })

/-- The platform address of an offset (R100, R200). -/
def platformAddress (off : Offset) : Nat := Config.blockBase + off.toNat

end Sys2Proof.Machine
end

