-- ==== Sys2Proof/Machine/Operands.lean ====
section
/-! DEFINITION. A command's operands: the context latched at its issue (R61, R450), the word its fields
come from, and the values the chain computes from it (R351, R355, R360). -/

namespace Sys2Proof.Machine

/-- The context an issue of the word `v` latches (R450). -/
def latch (v : Word) (s : State) : Ctx :=
  { op := v.extractLsb' 0 4
    nreq := v.extractLsb' 12 20
    snap := v.getLsbD 4
    wtype := v.extractLsb' 4 2
    inRate := s.inRate
    outRate := s.outRate
    f := s.freqOffset
    bw := s.bandwidth
    mode := s.mode
    volume := s.volume
    mute := s.mute
    deemphHz := s.deemphHz
    audioHz := s.audioLpfHz
    dbMin := s.dbMin
    dbMax := s.dbMax }

/-- The command word that a latched context stands for: its fields at their places (R152 to R154), the
reserved bits 0, as they are in every accepted word (R451). -/
def ctxWord (c : Ctx) : Word :=
  (c.nreq.setWidth 64 <<< 12) ||| (c.wtype.setWidth 64 <<< 4) |||
    ((BitVec.ofBool c.snap).setWidth 64 <<< 4) ||| c.op.setWidth 64

/-- The command of a pending context, read by the one decoder. -/
def fetch (c : Ctx) : Except CmdErr Instr := decode (ctxWord c)

/-- The context a command runs with: that of the pending (or running) command. A meaning is only run
on a pending one; for the others, where `step` never calls a meaning, it is the context that an issue
of the last word at this state would latch (notes/assumptions/9.md). -/
def context (s : State) : Ctx :=
  match s.seq with
  | .idle => latch s.lastCmd s
  | .pending c => c
  | .running r => r.ctx

/-- The effective tuning offset `f_eff` (R360). -/
def effectiveOffset (c : Ctx) : Draw F64 :=
  match c.mode with
  | .usb => do
    let h ← fmul c.bw f0p5
    fadd c.f h
  | .lsb => do
    let h ← fmul c.bw f0p5
    fsub c.f h
  | .am => pure c.f
  | .nfm => pure c.f
  | .wfm => pure c.f
  | .off => pure c.f

/-- The NCO phase increment `step` (R351): divide first, then multiply. -/
def ncoStep (fEff : F64) (inRate : BitVec 32) : Draw F64 :=
  if inRate.toNat = 0 then pure fZero
  else do
    let q ← fdiv fEff (float inRate.toNat)
    fmul fTwoPi q

/-- The one-pole coefficient `alpha(fc, R)` (R355). -/
def alpha (fc : F64) (r : BitVec 32) : Draw F64 :=
  if r.toNat = 0 then pure fZero
  else do
    let p ← fmul fTwoPi fc
    let a ← fdiv p (float r.toNat)
    pure (if flt fZero a then (if flt fOne a then fOne else a) else fZero)

end Sys2Proof.Machine
end

