-- ==== Sys2Proof/Machine/Commands.lean ====
section
/-! DEFINITION. The commands that take one engine step (R453): NOP (R456), REINIT (R370), IQ_CLEAR (R256),
AUD_CLEAR (R266) and WINGEN (R304). -/

namespace Sys2Proof.Machine

/-- `NOP` (R456): only `Complete()`. -/
def execNop (s : State) : Host.Outcome State Fault Refusal := .next (complete s)

/-- `REINIT` (R370): a fresh DSP state for the latched rates. -/
def execReinit (s : State) : Host.Outcome State Fault Refusal :=
  .next (complete { s with dsp := fresh (context s).inRate (context s).outRate })

/-- `IQ_CLEAR` (R256); the drop counter and flag stay. -/
def execIqClear (s : State) : Host.Outcome State Fault Refusal := .next (complete { s with iqf := [] })

/-- `AUD_CLEAR` (R266); the counters and flags stay. -/
def execAudClear (s : State) : Host.Outcome State Fault Refusal := .next (complete { s with audf := [] })

/-- `WINGEN` with `WTYPE` 0 (R304): the Hann window of R302. -/
def execWingenHann (s : State) : Host.Outcome State Fault Refusal := .next (complete (loadWindow hann s))

/-- `WINGEN` with `WTYPE` 1 (R304): the Hamming window of R303. -/
def execWingenHamming (s : State) : Host.Outcome State Fault Refusal :=
  .next (complete (loadWindow hamming s))

end Sys2Proof.Machine
end

