-- ==== Sys2Proof/Machine/Chain.lean ====
section
/-! DEFINITION. The NCO, the filter chain, the decimators and the demodulators: `ChainBlock` of R400 and
the stages it composes (R350 to R395). -/

namespace Sys2Proof.Machine

/-! ### Stages -/

/-- `wrap(p)` into [0, TWO_PI) (R353). -/
def wrap (p : F64) : Draw F64 :=
  match fval p with
  | .fin _ _ => do
    let r0 ← fmod p fTwoPi
    let r1 ← if flt r0 fZero then fadd r0 fTwoPi else pure r0
    let r2 := if fle fTwoPi r1 then fZero else r1
    pure (if feq r2 fZero then fZero else r2)
  | .inf _ => drawNaN
  | .nan => drawNaN

/-- NCO mixing of sample `i` of the block (R352). -/
def ncoMix (phi step : F64) (i : Nat) (x : Cplx) : Draw Cplx := do
  let p ← fmul step (float i)
  let th ← fsub phi p
  let c ← cos64 th
  let s ← sin64 th
  cmul x ⟨c, s⟩

/-- `state + a * (x - state)`, the one-pole update (R23, R356, R381, R390). -/
def onePole (a st x : F64) : Draw F64 := do
  let d ← fsub x st
  let m ← fmul a d
  fadd st m

/-- The channel filter (R356). -/
def channelFilter (a : F64) (ch t : Cplx) : Draw Cplx := do
  let re ← onePole a ch.re t.re
  let im ← onePole a ch.im t.im
  pure ⟨re, im⟩

/-- `angle(z)`: +0.0 for a zero vector of any signs (R365). -/
def angle (z : Cplx) : Draw F64 :=
  if feq z.re fZero && feq z.im fZero then pure fZero else atan2 z.im z.re

/-- `disc(a, b)`, the phase discriminator (R366). -/
def disc (a b : Cplx) : Draw F64 := do
  let z ← cmul a (conj b)
  let g ← angle z
  fmul f0p5 g

/-- `0.995 * avg + 0.005 * x`, the DC blocker's average (R375, R383). -/
def dcAverage (avg x : F64) : Draw F64 := do
  let p ← fmul f0p995 avg
  let q ← fmul f0p005 x
  fadd p q

/-- `sqrt(re * re + im * im)` (R375, R504). -/
def magnitude (z : Cplx) : Draw F64 := do
  let p ← fmul z.re z.re
  let q ← fmul z.im z.im
  let r ← fadd p q
  fsqrt r

/-- `Gain(o)` (R395). -/
def gain (c : Ctx) (o : F64) : Draw F64 := if c.mute then pure fZero else fmul o c.volume

/-- The audio post-filter and the gain after it (R390, R395). -/
def postFilter (c : Ctx) (aA : F64) (dsp : Dsp) (y : F64) : Draw (Dsp × F64) := do
  let p ← onePole aA dsp.post y
  let p' := if isNaN p then fZero else p
  let o ← gain c (clamp p' fMinusOne fOne)
  pure ({ dsp with post := p' }, o)

/-- AM (R375). -/
def demodAm (dsp : Dsp) (avg : Cplx) : Draw (Dsp × F64) := do
  let mag ← magnitude avg
  let dc ← dcAverage dsp.dcAm mag
  let y ← fsub mag dc
  pure ({ dsp with dcAm := dc }, y)

/-- NFM (R376). -/
def demodNfm (dsp : Dsp) (avg : Cplx) : Draw (Dsp × F64) := do
  let y ← disc avg dsp.prev
  pure ({ dsp with prev := avg }, y)

/-- LSB and USB (R377). -/
def demodSsb (dsp : Dsp) (avg : Cplx) : Draw (Dsp × F64) := do
  let y ← fmul avg.re fTwo
  pure (dsp, y)

/-- The WFM output `WfmOut(v)` and the gain after it (R383, R395). -/
def wfmOut (c : Ctx) (dsp : Dsp) (v : F64) : Draw (Dsp × F64) := do
  let dc ← dcAverage dsp.dcWfm v
  let u ← fsub v dc
  let o ← gain c (clamp u fMinus0p8 f0p8)
  pure ({ dsp with dcWfm := dc }, o)

/-! ### The block -/

/-- The values `ChainBlock` computes once a block (R400). -/
structure Coeffs where
  step : F64
  aCh : F64
  aDe : F64
  aA : F64
  decim : Nat
deriving DecidableEq, Repr

/-- The values of R351, R355, R357, R360 for a context. -/
def coeffs (c : Ctx) : Draw Coeffs := do
  let fEff ← effectiveOffset c
  let step ← ncoStep fEff c.inRate
  let half ← fmul c.bw f0p5
  let aCh ← alpha half c.inRate
  let aDe ← alpha c.deemphHz c.inRate
  let aA ← alpha c.audioHz c.outRate
  pure { step := step, aCh := aCh, aDe := aDe, aA := aA, decim := decimation c.inRate c.outRate }

/-- What the loop of R400 carries from sample to sample. -/
structure Loop where
  dsp : Dsp
  /-- The non-WFM group sum; it restarts with every block (R358). -/
  acc : Cplx
  /-- The non-WFM group count; it restarts with every block (R358). -/
  cnt : Nat
  /-- The outputs so far, NEWEST first. -/
  outs : List F64
deriving DecidableEq, Repr

/-- Demodulation of one averaged sample in the non-WFM modes (R375 to R378); WFM has none here. -/
def demodAveraged (c : Ctx) (k : Coeffs) (dsp : Dsp) (avg : Cplx) : Draw (Dsp × F64) :=
  match c.mode with
  | .am => do
    let r ← demodAm dsp avg
    postFilter c k.aA r.1 r.2
  | .nfm => do
    let r ← demodNfm dsp avg
    postFilter c k.aA r.1 r.2
  | .lsb => do
    let r ← demodSsb dsp avg
    postFilter c k.aA r.1 r.2
  | .usb => do
    let r ← demodSsb dsp avg
    postFilter c k.aA r.1 r.2
  | .off => pure (dsp, fZero)
  | .wfm => pure (dsp, fZero)

/-- One sample of the non-WFM path, after the channel filter: the boxcar average of R358, then the
demodulator of the mode. -/
def averagedSample (c : Ctx) (k : Coeffs) (l : Loop) : Draw Loop := do
  let acc ← cadd l.acc l.dsp.ch
  if l.cnt + 1 = k.decim then do
    let re ← fdiv acc.re (float k.decim)
    let im ← fdiv acc.im (float k.decim)
    let r ← demodAveraged c k l.dsp ⟨re, im⟩
    pure { dsp := r.1, acc := cZero, cnt := 0, outs := r.2 :: l.outs }
  else pure { l with acc := acc, cnt := l.cnt + 1 }

/-- One sample of the WFM path, after the channel filter (R380 to R383). -/
def wfmSample (c : Ctx) (k : Coeffs) (l : Loop) : Draw Loop := do
  let d ← disc l.dsp.ch l.dsp.prev
  let de ← onePole k.aDe l.dsp.de d
  let wacc ← fadd l.dsp.wacc de
  let dsp := { l.dsp with prev := l.dsp.ch, de := de, wacc := wacc, wcnt := l.dsp.wcnt + 1 }
  if l.dsp.wcnt + 1 = k.decim then do
    let q ← fdiv wacc (float k.decim)
    let v ← fmul q fFour
    let r ← wfmOut c dsp v
    pure { l with dsp := { r.1 with wacc := fZero, wcnt := 0 }, outs := r.2 :: l.outs }
  else pure { l with dsp := dsp }

/-- Sample `i` of the block: the NCO, the channel filter and the path of the mode (R350, R400). -/
def chainSample (c : Ctx) (k : Coeffs) (i : Nat) (x : Cplx) (l : Loop) : Draw Loop := do
  let t ← ncoMix l.dsp.phi k.step i x
  let ch ← channelFilter k.aCh l.dsp.ch t
  let l' := { l with dsp := { l.dsp with ch := ch } }
  match c.mode with
  | .wfm => wfmSample c k l'
  | .am => averagedSample c k l'
  | .nfm => averagedSample c k l'
  | .lsb => averagedSample c k l'
  | .usb => averagedSample c k l'
  | .off => averagedSample c k l'

/-- The samples of a block from index `i` on. -/
def chainLoop (c : Ctx) (k : Coeffs) : Nat → List Cplx → Loop → Draw Loop
  | _, [], l => pure l
  | i, x :: xs, l => do
    let l' ← chainSample c k i x l
    chainLoop c k (i + 1) xs l'

/-- The DSP state a block starts from: without persistence a WFM block restarts its accumulator (R385). -/
def blockStart (b : Build) (c : Ctx) (dsp : Dsp) : Dsp :=
  if c.mode = .wfm ∧ b.wfmAccPersist = false then { dsp with wacc := fZero, wcnt := 0 } else dsp

/-- `ChainBlock(ctx, dsp, x)` (R400): the new DSP state and the audio samples, in output order. -/
def chainBlock (b : Build) (c : Ctx) (dsp : Dsp) (xs : List Cplx) : Draw (Dsp × List F64) := do
  let k ← coeffs c
  let l ← chainLoop c k 0 xs { dsp := blockStart b c dsp, acc := cZero, cnt := 0, outs := [] }
  let adv ← fmul k.step (float xs.length)
  let p ← fsub l.dsp.phi adv
  let phi ← wrap p
  pure ({ l.dsp with phi := phi }, l.outs.reverse)

end Sys2Proof.Machine
end

