-- ==== Sys2Proof/Machine/Spectral.lean ====
section
/-! DEFINITION. The FFT engine (R310 to R315) and the spectral snapshot unit (R500 to R510). -/

namespace Sys2Proof.Machine

/-! ### FFT engine -/

/-- `rev_L(i)`: the `L` low bits of `i` in reverse order (R313). -/
def bitReverse : Nat → Nat → Nat
  | 0, _ => 0
  | l + 1, i => (i % 2) * 2 ^ l + bitReverse l (i / 2)

/-- `TW[k]` for a transform of `n` points (R312). -/
def twiddle (n k : Nat) : Draw Cplx := do
  let p ← fmul fTwoPi (float k)
  let a ← fdiv p (float n)
  let c ← cos64 a
  let s ← sin64 a
  pure ⟨c, fneg s⟩

/-- One butterfly of R311 on the points `p` and `q`, with the twiddle `tw`. -/
def butterfly (tw : Cplx) (z : List Cplx) (p q : Nat) : Draw (List Cplx) := do
  let t ← cmul tw (z.getD q cZero)
  let u := z.getD p cZero
  let hi ← cadd u t
  let lo ← csub u t
  pure ((z.set p hi).set q lo)

/-- Stage `st` (1 to L) of R311 on `n` points: for every base and every `j`, in that order. -/
def fftStage (n : Nat) (tw z : List Cplx) (st : Nat) : Draw (List Cplx) :=
  (List.range (n / 2 ^ st)).foldlM (fun z g =>
    (List.range (2 ^ st / 2)).foldlM (fun z j =>
      butterfly (tw.getD (j * (n / 2 ^ st)) cZero) z (g * 2 ^ st + j) (g * 2 ^ st + j + 2 ^ st / 2)) z) z

/-- The input in bit-reversed order: `Z[rev_L(i)] <- y[i]` (R311). -/
def bitReversed (l : Nat) (y : List Cplx) : List Cplx :=
  (List.range (2 ^ l)).foldl (fun z i => z.set (bitReverse l i) (y.getD i cZero)) (List.replicate (2 ^ l) cZero)

/-- `FFT_REF(y)` on `2^l` points (R311). -/
def fftRef (l : Nat) (y : List Cplx) : Draw (List Cplx) := do
  let tw ← (List.range (2 ^ l / 2)).mapM (twiddle (2 ^ l))
  (List.range l).foldlM (fun z st => fftStage (2 ^ l) tw z (st + 1)) (bitReversed l y)

/-- The first `n` points, with zeros after a shorter sequence (R500). -/
def padded (n : Nat) (y : List Cplx) : List Cplx := (y ++ List.replicate n cZero).take n

/-- `FFT_IMPL(y)` (R13, R310): the reference algorithm, or the one a build has in its place. -/
def fftImpl (b : Build) (y : List Cplx) : Draw (List Cplx) :=
  match Config.fftReplacement with
  | none => fftRef b.fftLog2N y
  | some f => fun d => (padded b.fftN (f d y), d + 1)

/-! ### Snapshot -/

/-- The windowed slice (R500, R501): the leading `FFT_N` raw samples, zero-padded, each times its
weight in the window LUT. -/
def windowed (s : State) (blk : List Cplx) : Draw (List Cplx) :=
  (List.range s.build.fftN).mapM fun k => cscale ((padded s.build.fftN blk).getD k cZero) (s.win k)

/-- `bin(i) = (i + N/2) mod N` (R503). -/
def bin (n i : Nat) : Nat := (i + n / 2) % n

/-- `m[i]`, the magnitude of a bin over `N` (R504). -/
def binMagnitude (n : Nat) (z : Cplx) : Draw F64 := do
  let m ← magnitude z
  fdiv m (float n)

/-- `dB[i]` (R505). -/
def decibels (m : F64) : Draw F64 :=
  if flt fMagFloor m then do
    let g ← log10 m
    fmul fTwenty g
  else pure fDbFloor

/-- `L[i]`, the smoothed spectrum line (R506). -/
def smooth (old db : F64) : Draw F64 := do
  let p ← fmul f0p7 old
  let q ← fmul f0p3 db
  fadd p q

/-- The palette index of a pixel (R508). -/
def pixelIndex (c : Ctx) (db : F64) : Draw Nat := do
  let t ← if flt c.dbMin c.dbMax then do
      let num ← fsub db c.dbMin
      let den ← fsub c.dbMax c.dbMin
      fdiv num den
    else pure fZero
  let t1 := if flt fZero t then t else fZero
  let t2 := if flt fOne t1 then fOne else t1
  let u ← fmul t2 f255
  pure (floorF u)

/-- `Snapshot(ctx, blk)` (R500 to R508): the new spectrum line and the new waterfall row. -/
def snapshot (s : State) (c : Ctx) (blk : List Cplx) : Draw (List F64 × List Word) := do
  let xw ← windowed s blk
  let x ← fftImpl s.build xw
  let db ← (List.range s.build.fftN).mapM fun i => do
    let m ← binMagnitude s.build.fftN (x.getD (bin s.build.fftN i) cZero)
    decibels m
  let line ← (List.range s.build.fftN).mapM fun i => smooth (s.spectrum i) (db.getD i fZero)
  let row ← (List.range s.build.fftN).mapM fun i => do
    let idx ← pixelIndex c (db.getD i fZero)
    pure (s.palette idx)
  pure (line, row)

/-- `Publish(L, P)`, one atomic step (R510). -/
def publish (line : List F64) (row : List Word) (s : State) : State :=
  let m := writeWords s.build s.mem spectrumBase (line.map F64.bits)
  setFlag .wfDirty
    { s with mem := writeWords s.build m wfRowBase row, snapSeq := s.snapSeq + 1#64 }

end Sys2Proof.Machine
end

