-- ==== Sys2Proof/Machine/Process.lean ====
section
/-! DEFINITION. PROCESS (R460): its start step (R461) and its run steps (R464). -/

namespace Sys2Proof.Machine

/-- The fresh DSP state of a rate change (R371, R461). -/
def freshOnRateChange (c : Ctx) (s : State) : State :=
  if c.inRate = s.dsp.curIn ∧ c.outRate = s.dsp.curOut then s
  else { s with dsp := fresh c.inRate c.outRate }

/-- `PopN(IQF, k)` (R255): the oldest `k` samples, and the FIFO without them. -/
def iqPopN (k : Nat) (s : State) : List Cplx × State := (s.iqf.take k, { s with iqf := s.iqf.drop k })

/-- The end of a `PROCESS` that consumed `n` samples and produced `m` (R43, R44, R461, R464 (c)). -/
def finishProcess (n m : Nat) (s : State) : State := complete { s with lastN := n, lastM := m }

/-- Run the chain on the block popped and enter `RUNNING` (R461, R463). -/
def beginRun (c : Ctx) (snap : Bool) (blk : List Cplx) (s : State) : State :=
  let r := chainBlock s.build c s.dsp blk s.env.draws
  { s with
    dsp := r.1.1
    seq := .running { ctx := c, blk := blk, outs := r.1.2, next := 0, snapPending := snap }
    env := { s.env with draws := r.2 } }

/-- The start step of `PROCESS N, SNAP` (R461). -/
def startProcess (n : BitVec 20) (snap : Bool) (s : State) : State :=
  let c := context s
  let s1 := freshOnRateChange c s
  let r := iqPopN (min n.toNat s1.iqf.length) s1
  if r.1.length = 0 then finishProcess 0 0 r.2 else beginRun c snap r.1 r.2

/-- `PROCESS` (R460). -/
def execProcess (n : BitVec 20) (snap : Bool) (s : State) : Host.Outcome State Fault Refusal :=
  .next (startProcess n snap s)

/-- Action (a) of R464: push the next audio sample. -/
def pushNext (r : Run) (s : State) : State :=
  audPush (r.outs.getD r.next fZero) { s with seq := .running { r with next := r.next + 1 } }

/-- Action (b) of R464: compute the snapshot of the raw block and publish it (R467, R510). -/
def publishSnapshot (r : Run) (s : State) : State :=
  let p := snapshot s r.ctx r.blk s.env.draws
  publish p.1.1 p.1.2
    { s with
      seq := .running { r with snapPending := false }
      env := { s.env with draws := p.2 } }

/-- One engine step of a `RUNNING` command (R464). When both (a) and (b) are enabled the choice is a
free value (R466, I6). -/
def runStep (r : Run) (s : State) : State :=
  if r.next < r.outs.length then
    if r.snapPending then
      let ds := s.draw
      if ds.1.getLsbD 0 then publishSnapshot r ds.2 else pushNext r ds.2
    else pushNext r s
  else if r.snapPending then publishSnapshot r s
  else finishProcess r.blk.length r.outs.length s

end Sys2Proof.Machine
end

