-- ==== Sys2Proof/Machine/Dispatch.lean ====
section
/-! DEFINITION. The engine's step on a pending command: one arm per command (R453). -/

namespace Sys2Proof.Machine

def exec (i : Instr) (s : State) : Host.Outcome State Fault Refusal :=
  match i with
  | .nop => Sys2Proof.Machine.execNop s
  | .process n snap => Sys2Proof.Machine.execProcess n snap s
  | .reinit => Sys2Proof.Machine.execReinit s
  | .iqClear => Sys2Proof.Machine.execIqClear s
  | .audClear => Sys2Proof.Machine.execAudClear s
  | .wingenHann => Sys2Proof.Machine.execWingenHann s
  | .wingenHamming => Sys2Proof.Machine.execWingenHamming s

end Sys2Proof.Machine
end

