-- ==== Sys2Proof/WellFormed.lean ====
section
/-! DEFINITION. Which commands a build accepts: the one value check that is not part of the encoding,
`N <= MAX_BLOCK` (R157, R451). The width of `N` is its type. -/

namespace Sys2Proof

/-- The value check of an issue (R157, R451): `PROCESS` asks for at most `MAX_BLOCK` samples. -/
def Instr.wellFormed (b : Build) : Instr → Bool
  | .nop => true
  | .process n _ => decide (n.toNat ≤ b.maxBlock)
  | .reinit => true
  | .iqClear => true
  | .audClear => true
  | .wingenHann => true
  | .wingenHamming => true

end Sys2Proof
end

