-- ==== Sys2Proof/Machine/HostBus.lean ====
section
/-! DEFINITION. The host bus (R200 to R211), command issue (R450, R451), the two streaming ports (R253,
R264) and the reset input (R700). -/

namespace Sys2Proof.Machine

/-- The 35 host-visible registers, in the order of their offsets (R32). -/
inductive Reg where
  | id | fftSize | iqDepth | audDepth | maxBlk | ctrl | cmd | status | irqEn | errAddr | lastN | lastM
  | inRate | outRate | freqOffset | bandwidth | mode | volume | deemphHz | audioLpfHz | dbMin | dbMax
  | iqCount | iqDrops | iqPushRe | iqPushIm | audCount | audDrops | audUnderruns | audPop | snapSeq
  | decim | ncoPhase | curInRate | curOutRate
deriving DecidableEq, Repr

/-- The registers at offsets 0x000, 0x008, … 0x110 (R32). -/
def registers : List Reg :=
  [.id, .fftSize, .iqDepth, .audDepth, .maxBlk, .ctrl, .cmd, .status, .irqEn, .errAddr, .lastN, .lastM] ++
  [.inRate, .outRate, .freqOffset, .bandwidth, .mode, .volume, .deemphHz, .audioLpfHz, .dbMin, .dbMax] ++
  [.iqCount, .iqDrops, .iqPushRe, .iqPushIm, .audCount, .audDrops, .audUnderruns, .audPop, .snapSeq] ++
  [.decim, .ncoPhase, .curInRate, .curOutRate]

/-- What an aligned, mapped offset names (R101). -/
inductive Region where
  | reg (r : Reg)
  | palette (i : Nat)
  | winLut (k : Nat)
  | spectrum (k : Nat)
  | wfRow (k : Nat)
deriving DecidableEq, Repr

/-- The entry of a LUT of `n` entries at `base` that an offset names. -/
def lutIndex (base n a : Nat) : Option Nat :=
  if base ≤ a ∧ a < base + 8 * n then some ((a - base) / 8) else none

/-- The address map (R101); `none` is an unmapped offset. -/
def region (b : Build) (off : Offset) : Option Region :=
  ((registers[off.toNat / 8]?).map Region.reg).or <|
  ((lutIndex paletteBase 256 off.toNat).map Region.palette).or <|
  ((lutIndex winLutBase b.fftN off.toNat).map Region.winLut).or <|
  ((lutIndex spectrumBase b.fftN off.toNat).map Region.spectrum).or <|
  (lutIndex wfRowBase b.fftN off.toNat).map Region.wfRow

/-- Read-only registers and LUTs (R210). -/
def readOnly : Region → Bool
  | .reg r =>
    match r with
    | .id | .fftSize | .iqDepth | .audDepth | .maxBlk | .errAddr | .lastN | .lastM | .iqCount | .iqDrops
    | .audCount | .audDrops | .audUnderruns | .audPop | .snapSeq | .decim | .ncoPhase | .curInRate
    | .curOutRate => true
    | .ctrl | .cmd | .status | .irqEn | .inRate | .outRate | .freqOffset | .bandwidth | .mode | .volume
    | .deemphHz | .audioLpfHz | .dbMin | .dbMax | .iqPushRe | .iqPushIm => false
  | .palette _ => false
  | .winLut _ => false
  | .spectrum _ => true
  | .wfRow _ => true

/-- The LUTs the host may write while no command is busy (R208). -/
def hostLut : Region → Bool
  | .reg _ => false
  | .palette _ => true
  | .winLut _ => true
  | .spectrum _ => false
  | .wfRow _ => false

/-! ### Reads -/

/-- A DSP-state view register: exact while idle, a draw while busy (R59, R725). -/
def readView (w : Word) (s : State) : Word × State := if s.busy then s.draw else (w, s)

/-- `ReadReg(NAME)` (R203). -/
def readReg (r : Reg) (s : State) : Word × State :=
  match r with
  | .id => (0x4F53445200000007#64, s)
  | .fftSize => (BitVec.ofNat 64 s.build.fftN, s)
  | .iqDepth => (BitVec.ofNat 64 s.build.cIq, s)
  | .audDepth => (BitVec.ofNat 64 s.build.cAud, s)
  | .maxBlk => (BitVec.ofNat 64 s.build.maxBlock, s)
  | .ctrl => ((BitVec.ofBool s.mute).setWidth 64, s)
  | .cmd => (s.lastCmd, s)
  | .status => (s.status, s)
  | .irqEn => (s.irqEn.setWidth 64 <<< 1, s)
  | .errAddr => (s.errAddr, s)
  | .lastN => (BitVec.ofNat 64 s.lastN, s)
  | .lastM => (BitVec.ofNat 64 s.lastM, s)
  | .inRate => (s.inRate.setWidth 64, s)
  | .outRate => (s.outRate.setWidth 64, s)
  | .freqOffset => (s.freqOffset.bits, s)
  | .bandwidth => (s.bandwidth.bits, s)
  | .mode => ((modeCode s.mode).setWidth 64, s)
  | .volume => (s.volume.bits, s)
  | .deemphHz => (s.deemphHz.bits, s)
  | .audioLpfHz => (s.audioLpfHz.bits, s)
  | .dbMin => (s.dbMin.bits, s)
  | .dbMax => (s.dbMax.bits, s)
  | .iqCount => (BitVec.ofNat 64 s.iqf.length, s)
  | .iqDrops => (s.iqDrops, s)
  | .iqPushRe => (0#64, s)
  | .iqPushIm => (0#64, s)
  | .audCount => (BitVec.ofNat 64 s.audf.length, s)
  | .audDrops => (s.audDrops, s)
  | .audUnderruns => (s.audUnf, s)
  | .audPop => ((audPop s).1.bits, (audPop s).2)
  | .snapSeq => (s.snapSeq, s)
  | .decim => readView (BitVec.ofNat 64 (decimation s.dsp.curIn s.dsp.curOut)) s
  | .ncoPhase => readView s.dsp.phi.bits s
  | .curInRate => readView (s.dsp.curIn.setWidth 64) s
  | .curOutRate => readView (s.dsp.curOut.setWidth 64) s

/-- A read of a mapped region (R201). -/
def readRegion (g : Region) (s : State) : Word × State :=
  match g with
  | .reg r => readReg r s
  | .palette i => (s.palette i, s)
  | .winLut k => ((s.win k).bits, s)
  | .spectrum k => ((s.spectrum k).bits, s)
  | .wfRow k => (s.wfRow k, s)

/-- `MemRead(off, 8)` (R201): the value the host gets, and the state after. -/
def hostRead (off : Offset) (s : State) : Word × State :=
  if off.toNat % 8 ≠ 0 then (0#64, busError .align off s)
  else
    match region s.build off with
    | none => (0#64, busError .unmapped off s)
    | some g => readRegion g s

/-! ### Command issue -/

/-- `IssueCheck(v)` (R451, R605): busy first, then the decoder's errors, then the range of `N`. -/
def issueCheck (v : Word) (s : State) : Option CmdErr :=
  if s.busy then some .busy
  else
    match decode v with
    | .error e => some e
    | .ok i => if i.wellFormed s.build then none else some .nRange

/-- `Issue(v)` (R450): the word is recorded, then rejected or latched. -/
def issue (v : Word) (s : State) : State :=
  let s1 := { s with lastCmd := v }
  match issueCheck v s1 with
  | some e => cmdError e s1
  | none => { s1 with seq := .pending (latch v s1) }

/-! ### Writes -/

/-- `WriteReg(NAME, v)` (R204). The read-only registers do not get here (R202); they are unchanged. -/
def writeReg (r : Reg) (v : Word) (s : State) : State :=
  match r with
  | .ctrl => { s with mute := v.getLsbD 0 }
  | .cmd => issue v s
  | .status => clearFlags v s
  | .irqEn => { s with irqEn := v.extractLsb' 1 7 }
  | .inRate => { s with inRate := v.extractLsb' 0 32 }
  | .outRate => { s with outRate := v.extractLsb' 0 32 }
  | .freqOffset => { s with freqOffset := ⟨v⟩ }
  | .bandwidth => { s with bandwidth := ⟨v⟩ }
  | .mode =>
    match modeOfCode (v.extractLsb' 0 3) with
    | some m => { s with mode := m }
    | none => s
  | .volume => { s with volume := ⟨v⟩ }
  | .deemphHz => { s with deemphHz := ⟨v⟩ }
  | .audioLpfHz => { s with audioLpfHz := ⟨v⟩ }
  | .dbMin => { s with dbMin := ⟨v⟩ }
  | .dbMax => { s with dbMax := ⟨v⟩ }
  | .iqPushRe => { s with pushRe := ⟨v⟩ }
  | .iqPushIm => iqPush ⟨s.pushRe, ⟨v⟩⟩ s
  | .id => s
  | .fftSize => s
  | .iqDepth => s
  | .audDepth => s
  | .maxBlk => s
  | .errAddr => s
  | .lastN => s
  | .lastM => s
  | .iqCount => s
  | .iqDrops => s
  | .audCount => s
  | .audDrops => s
  | .audUnderruns => s
  | .audPop => s
  | .snapSeq => s
  | .decim => s
  | .ncoPhase => s
  | .curInRate => s
  | .curOutRate => s

/-- A write of a mapped, writable region (R202). -/
def writeRegion (g : Region) (v : Word) (s : State) : State :=
  match g with
  | .reg r => writeReg r v s
  | .palette i =>
    { s with mem := writeWord s.build s.mem (paletteBase + 8 * i) ((v.setWidth 32).setWidth 64) }
  | .winLut k => { s with mem := writeWord s.build s.mem (winLutBase + 8 * k) v }
  | .spectrum _ => s
  | .wfRow _ => s

/-- `MemWrite(off, 8, v)` (R202): the errors in the order of R605. -/
def hostWrite (off : Offset) (v : Word) (s : State) : State :=
  if off.toNat % 8 ≠ 0 then busError .align off s
  else
    match region s.build off with
    | none => busError .unmapped off s
    | some g =>
      if readOnly g then busError .readOnly off s
      else if hostLut g && s.busy then busError .lutBusy off s
      else writeRegion g v s

/-! ### The agents outside -/

/-- `Reset()` (R700, R701) on a running machine: every element of the block's state; the model's own
fields go on (notes/assumptions/2.md). -/
def resetBlock (s : State) : State := { State.resetFor s.build with env := s.env }

/-- One step of `HOST`, `PROD`, `CONS` or of the reset input. -/
def outsideStep (e : Event) (s : State) : State :=
  match e with
  | .hostRead off =>
    let r := hostRead off s
    { r.2 with env := { r.2.env with busData := r.1 } }
  | .hostWrite off v => hostWrite off v s
  | .prodPush x => iqPush x s
  | .consPop =>
    let r := audPop s
    { r.2 with env := { r.2.env with audioOut := r.1 } }
  | .reset => resetBlock s

/-- The offset of `CMD` (R32). -/
def cmdOffset : Offset := 0x030#22

end Sys2Proof.Machine
end

