-- ==== Sys2Proof/Machine/Step.lean ====
section
/-! DEFINITION. One atomic step of the machine (R20, R110): the agent whose turn it is steps. -/

namespace Sys2Proof.Machine

/-- The engine's step (R453): a pending command is decoded from its latched fields and run, a running
`PROCESS` goes on, and an idle engine has no step, so nothing changes (I26). -/
def engineStep (s : State) : Host.Outcome State Fault Refusal :=
  match s.seq with
  | .idle => .next s
  | .pending c =>
    match fetch c with
    | .ok i => exec i s
    | .error e => .fault (.notACommand e)
  | .running r => .next (runStep r s)

/-- The state with the turns still to come. -/
def State.withTurns (s : State) (ts : List Turn) : State := { s with env := { s.env with turns := ts } }

/-- One step: the next turn's agent steps; when no turn is left, the engine steps (R454). -/
def step (s : State) : Host.Outcome State Fault Refusal :=
  match s.env.turns with
  | [] => engineStep s
  | .engine :: ts => engineStep (s.withTurns ts)
  | .outside e :: ts => .next (outsideStep e (s.withTurns ts))

/-- `s` with the command of the table's bits `w` where the engine fetches its next command: latched as
the pending command, with the engine's turn next. A word that is no command cannot be latched; it
stands where it would be rejected, in a `CMD` write that comes next. -/
def State.withFetchWord (s : State) (nbits w : Nat) : State :=
  match decode (tableWord nbits w) with
  | .ok _ => { s.withTurns [] with seq := .pending (latch (tableWord nbits w) s) }
  | .error _ => s.withTurns [.outside (.hostWrite cmdOffset (tableWord nbits w))]

end Sys2Proof.Machine
end

