-- ==== Sys2Proof/Safety.lean ====
section
/-! DEFINITION. What every state of a run satisfies: the ranges and forms that the rules give the state
elements, as one invariant (`State.Inv`), each clause with its rule. -/

namespace Sys2Proof.Machine

/-- The codes that `ERR_CODE` can hold: 0, the command codes and the bus codes (R603, R607, R608). -/
def legalErrCode (c : BitVec 4) : Bool :=
  c.toNat ≤ 5 || (8 ≤ c.toNat && c.toNat ≤ 11)

/-- A pending context stands for a command that the issue check accepts (R450, R451). -/
def pendingLegal (b : Build) (c : Ctx) : Prop := ∃ i : Instr, fetch c = .ok i ∧ i.wellFormed b = true

/-- The ranges of a run record (R460, R461, R462): at least one sample, at most `MAX_BLOCK`, and at most
one output a sample. -/
def runLegal (b : Build) (r : Run) : Prop :=
  r.next ≤ r.outs.length ∧ r.outs.length ≤ r.blk.length ∧ 1 ≤ r.blk.length ∧ r.blk.length ≤ b.maxBlock

/-- The sequencer holds a legal command (R60). -/
def seqLegal (b : Build) : Seq → Prop
  | .idle => True
  | .pending c => pendingLegal b c
  | .running r => runLegal b r

/-- The invariant of the block. That its build is a legal one (R314) needs no clause: `Build` holds no other. -/
structure State.Inv (s : State) : Prop where
  /-- The LUT memory has its canonical form. -/
  mem : Memory.wf s.build s.mem = true
  /-- `0 <= |S.iqf| <= C_IQ - 1` (R258). -/
  iqf : s.iqf.length ≤ s.build.cIq - 1
  /-- `0 <= |S.audf| <= C_AUD - 1` (R267). -/
  audf : s.audf.length ≤ s.build.cAud - 1
  /-- `LAST_N` is a count a `PROCESS` can consume (R43, R460). -/
  lastN : s.lastN ≤ s.build.maxBlock
  /-- `LAST_M` is at most one output a sample (R44). -/
  lastM : s.lastM ≤ s.lastN
  /-- `ERR_CODE` never holds 6, 7 or 12 to 15 (R607). -/
  errCode : legalErrCode s.errCode = true
  /-- `dsp.wcnt < D` between commands (R382). -/
  wcnt : s.dsp.wcnt < decimation s.dsp.curIn s.dsp.curOut
  /-- The sequencer holds a legal command (R60). -/
  seq : seqLegal s.build s.seq

/-- A finite value (R15). -/
def finite (x : F64) : Bool := fexp x != 2047

/-- A state after `k` steps of the machine with nothing in between: the engine alone, once no turn is left. -/
def runsTo (k : Nat) (s t : State) : Prop := Sys2Proof.core.run k s = .next t

end Sys2Proof.Machine
end

