-- ==== Sys2Proof/Certificates/Slice0/Obligations.lean ====
section
/-! DEFINITION. The statements for the provers, from the numbered rules of the spec. Flag masks are
written as bits of `State.flags`, whose bit j is bit j+1 of `STATUS` (R40): DONE 0b1, WF_DIRTY 0b10,
IQ_OVF 0b100, AUD_OVF 0b1000, AUD_UNF 0b10000, CMD_ERR 0b100000, BUS_ERR 0b1000000. -/

open Sys2Proof Sys2Proof.Machine

/-! ### Encoding -/

/-- R152 to R154, R159: decoding the encoding of any command gives it back, `N` and `SNAP` at every value. -/
def Obligations.EncodedCommandDecodesToItself : Prop :=
  ∀ i : Instr, decode (encode i) = .ok i

/-- R150 to R159: a command has exactly one word, so no bit of an accepted word is dropped. -/
def Obligations.AcceptedWordIsTheEncoding : Prop :=
  ∀ (w : Word) (i : Instr), decode w = .ok i → encode i = w

/-- R157, opcode_table.json: the (match, mask) pairs select the commands. -/
def Obligations.TablePatternsSelectTheirCommands : Prop :=
  ∀ w : Word,
    (w &&& 0xFFFFFFFFFFFFFFFF#64 = 0x0#64 ↔ decode w = .ok .nop) ∧
    (w &&& 0xFFFFFFFF00000FEF#64 = 0x1#64 ↔
      decode w = .ok (.process (w.extractLsb' 12 20) (w.getLsbD 4))) ∧
    (w &&& 0xFFFFFFFFFFFFFFFF#64 = 0x2#64 ↔ decode w = .ok .reinit) ∧
    (w &&& 0xFFFFFFFFFFFFFFFF#64 = 0x3#64 ↔ decode w = .ok .iqClear) ∧
    (w &&& 0xFFFFFFFFFFFFFFFF#64 = 0x4#64 ↔ decode w = .ok .audClear) ∧
    (w &&& 0xFFFFFFFFFFFFFFFF#64 = 0x05#64 ↔ decode w = .ok .wingenHann) ∧
    (w &&& 0xFFFFFFFFFFFFFFFF#64 = 0x15#64 ↔ decode w = .ok .wingenHamming)

/-- R159, R152 to R154: words written out from the encoding tables decode to the commands they stand for. -/
def Obligations.WrittenOutWordsDecode : Prop :=
  decodeTableWord 64 0x0 = some .nop ∧ decodeTableWord 64 0x8555011 = some (.process 34133#20 true) ∧
  decodeTableWord 64 0x10000001 = some (.process 65536#20 false) ∧ decodeTableWord 64 0x2 = some .reinit ∧
  decodeTableWord 64 0x3 = some .iqClear ∧ decodeTableWord 64 0x4 = some .audClear ∧
  decodeTableWord 64 0x05 = some .wingenHann ∧ decodeTableWord 64 0x15 = some .wingenHamming

/-! ### Issue -/

/-- R451: the issue check, in its order, over the fields of the word. -/
def Obligations.IssueCheckFollowsItsOrder : Prop :=
  ∀ (v : Word) (s : State),
    issueCheck v s =
      if s.seq ≠ .idle then some .busy
      else if 0x6 ≤ (v.extractLsb' 0 4).toNat then some .illegalOp
      else if (v.extractLsb' 0 4).toNat = 1 ∧ (v.extractLsb' 32 32 ≠ 0#32 ∨ v.extractLsb' 5 7 ≠ 0#7) then
        some .reserved
      else if (v.extractLsb' 0 4).toNat = 5 ∧ v.extractLsb' 6 58 ≠ 0#58 then some .reserved
      else if (v.extractLsb' 0 4).toNat ∈ [0, 2, 3, 4] ∧ v.extractLsb' 4 60 ≠ 0#60 then some .reserved
      else if (v.extractLsb' 0 4).toNat = 5 ∧ 1 < (v.extractLsb' 4 2).toNat then some .wtype
      else if (v.extractLsb' 0 4).toNat = 1 ∧ s.build.maxBlock < (v.extractLsb' 12 20).toNat then some .nRange
      else none

/-- R450, R601, R603: a `CMD` write records its word; then it is rejected with its code, `CMD_ERR` and
nothing else, or it latches the context, every field of it, and `BUSY` reads 1. -/
def Obligations.CmdWriteLatchesOrRejects : Prop :=
  ∀ (v : Word) (s : State),
    (∀ e, issueCheck v s = some e →
      hostWrite 0x030#22 v s =
        { s with
          lastCmd := v
          errCode := (match e with | .illegalOp => 1#4 | .reserved => 2#4 | .busy => 3#4 | .nRange => 4#4 | .wtype => 5#4)
          flags := s.flags ||| 0b100000#7 }) ∧
    (issueCheck v s = none →
      hostWrite 0x030#22 v s =
        { s with
          lastCmd := v
          seq := .pending
            { op := v.extractLsb' 0 4, nreq := v.extractLsb' 12 20, snap := v.getLsbD 4, wtype := v.extractLsb' 4 2
              inRate := s.inRate, outRate := s.outRate, f := s.freqOffset, bw := s.bandwidth, mode := s.mode
              volume := s.volume, mute := s.mute, deemphHz := s.deemphHz, audioHz := s.audioLpfHz
              dbMin := s.dbMin, dbMax := s.dbMax } } ∧
      (hostWrite 0x030#22 v s).busy = true)

/-! ### Steps -/

/-- R453, R110: with the engine's turn (or none left) a pending context that decodes to a command runs
it, on the state with that turn taken; an idle engine changes nothing but the turn. (The list of turns
is the model's own; notes/assumptions/3.md.) -/
def Obligations.EngineTurnRunsThePendingCommand : Prop :=
  (∀ (s : State) (c : Ctx) (i : Instr), s.seq = .pending c → fetch c = .ok i →
    (s.env.turns = [] → step s = exec i s) ∧
    (∀ ts, s.env.turns = .engine :: ts → step s = exec i { s with env := { s.env with turns := ts } })) ∧
  (∀ s : State, s.seq = .idle →
    (s.env.turns = [] → step s = .next s) ∧
    (∀ ts, s.env.turns = .engine :: ts → step s = .next { s with env := { s.env with turns := ts } }))

/-- R450, R453: the context latched for any word that decodes to a command runs exactly that command.
(`withFetchWord` is the model's own; notes/assumptions/1.md.) -/
def Obligations.LatchedWordRunsItsCommand : Prop :=
  ∀ (s : State) (nbits w : Nat) (i : Instr), decodeTableWord nbits w = some i →
    fetch (latch (tableWord nbits w) s) = .ok i ∧
    step (s.withFetchWord nbits w) = exec i (s.withFetchWord nbits w)

/-- R258, R267, R382, R462, R607 and the canonical LUT memory, together: every step keeps them. -/
def Obligations.EveryStepKeepsTheInvariant : Prop :=
  ∀ s t : State, s.Inv → step s = .next t → t.Inv

/-- R701: the state right after reset has them. -/
def Obligations.ResetStateHasTheInvariant : Prop := State.reset.Inv

/-- R600, R612: from a state with the invariant no step stops the machine. -/
def Obligations.InvariantStatesAlwaysStepOn : Prop :=
  ∀ s : State, s.Inv → ∃ t, step s = .next t

/-! ### Commands -/

/-- R456, R455: `NOP` completes and changes nothing else. -/
def Obligations.NopOnlyCompletes : Prop :=
  ∀ s : State, exec .nop s = .next { s with seq := .idle, flags := s.flags ||| 0b1#7 }

/-- R370: `REINIT` makes the DSP state fresh for the latched rates, completes, and changes nothing else. -/
def Obligations.ReinitMakesTheDspStateFresh : Prop :=
  ∀ (s : State) (c : Ctx), s.seq = .pending c →
    exec .reinit s =
      .next { s with
        seq := .idle
        flags := s.flags ||| 0b1#7
        dsp :=
          { phi := ⟨0#64⟩, ch := ⟨⟨0#64⟩, ⟨0#64⟩⟩, prev := ⟨⟨0#64⟩, ⟨0#64⟩⟩, de := ⟨0#64⟩, dcAm := ⟨0#64⟩
            dcWfm := ⟨0#64⟩, post := ⟨0#64⟩, wacc := ⟨0#64⟩, wcnt := 0, curIn := c.inRate, curOut := c.outRate } }

/-- R256: `IQ_CLEAR` empties the I/Q FIFO, completes, and leaves `IQ_DROPS`, `IQ_OVF` and the rest. -/
def Obligations.IqClearEmptiesTheIqFifo : Prop :=
  ∀ s : State, exec .iqClear s = .next { s with seq := .idle, flags := s.flags ||| 0b1#7, iqf := [] }

/-- R266: `AUD_CLEAR` empties the audio FIFO, completes, and leaves the counters, the flags and the rest. -/
def Obligations.AudClearEmptiesTheAudioFifo : Prop :=
  ∀ s : State, exec .audClear s = .next { s with seq := .idle, flags := s.flags ||| 0b1#7, audf := [] }

/-- R304: `WINGEN hann` fills the window LUT with `W_h`, completes, and leaves every other byte of the
LUT memory and all other state. -/
def Obligations.WingenHannFillsTheWindow : Prop :=
  ∀ s : State, Memory.wf s.build s.mem = true →
    ∃ t, exec .wingenHann s = .next t ∧
      t = { s with seq := .idle, flags := s.flags ||| 0b1#7, mem := t.mem } ∧
      (∀ k, k < s.build.fftN → t.win k = (raisedCosine f0p5 f0p5 s.build k 0).1) ∧
      (∀ a, a < 0x100000 ∨ 0x100000 + 8 * s.build.fftN ≤ a →
        readByte s.build t.mem a = readByte s.build s.mem a)

/-- R304: `WINGEN hamming` fills the window LUT with `W_m`, completes, and leaves every other byte of
the LUT memory and all other state. -/
def Obligations.WingenHammingFillsTheWindow : Prop :=
  ∀ s : State, Memory.wf s.build s.mem = true →
    ∃ t, exec .wingenHamming s = .next t ∧
      t = { s with seq := .idle, flags := s.flags ||| 0b1#7, mem := t.mem } ∧
      (∀ k, k < s.build.fftN → t.win k = (raisedCosine f0p54 f0p46 s.build k 0).1) ∧
      (∀ a, a < 0x100000 ∨ 0x100000 + 8 * s.build.fftN ≤ a →
        readByte s.build t.mem a = readByte s.build s.mem a)

/-- R302, R303, R702: no operation of a window entry gives a NaN, so an entry draws nothing and is the
same whatever has been drawn before. (The model's inference: notes/assumptions/6.md.) -/
def Obligations.WindowEntriesDrawNothing : Prop :=
  ∀ (b : Build) (k d : Nat), k < b.fftN →
    raisedCosine f0p5 f0p5 b k d = (hann b k, d) ∧ raisedCosine f0p54 f0p46 b k d = (hamming b k, d)

/-- R461, R371, R255: `PROCESS` with `n = min(N, |iqf|) >= 1` takes the oldest `n` samples, runs the
chain on them (from a fresh DSP state when a latched rate has changed) and enters `RUNNING`; all other
state, the LUT memory included, is unchanged. -/
def Obligations.ProcessStartRunsTheChainOnTheOldestSamples : Prop :=
  ∀ (s : State) (c : Ctx) (n : BitVec 20) (snap : Bool), s.seq = .pending c →
    1 ≤ min n.toNat s.iqf.length →
    let dsp0 := if c.inRate = s.dsp.curIn ∧ c.outRate = s.dsp.curOut then s.dsp else fresh c.inRate c.outRate
    let blk := s.iqf.take (min n.toNat s.iqf.length)
    let r := chainBlock s.build c dsp0 blk s.env.draws
    exec (.process n snap) s =
      .next { s with
        iqf := s.iqf.drop (min n.toNat s.iqf.length)
        dsp := r.1.1
        seq := .running { ctx := c, blk := blk, outs := r.1.2, next := 0, snapPending := snap }
        env := { s.env with draws := r.2 } }

/-- R461, R512: `PROCESS` with no sample to take sets `LAST_N = LAST_M = 0` and completes, without audio
and without a snapshot; a changed rate still makes the DSP state fresh. -/
def Obligations.ProcessWithoutSamplesCompletes : Prop :=
  ∀ (s : State) (c : Ctx) (n : BitVec 20) (snap : Bool), s.seq = .pending c →
    min n.toNat s.iqf.length = 0 →
    exec (.process n snap) s =
      .next { s with
        seq := .idle
        flags := s.flags ||| 0b1#7
        lastN := 0
        lastM := 0
        dsp := if c.inRate = s.dsp.curIn ∧ c.outRate = s.dsp.curOut then s.dsp else fresh c.inRate c.outRate }

/-- R464: the run steps of `PROCESS`: with only a push left, a push; with only the snapshot left, the
publish; with both, one of the two; with neither, the completion. (The draw of the choice, and the engine
stepping when no turn is listed, are the model's form; notes/assumptions/3.md and 4.md.) -/
def Obligations.RunStepTakesAnEnabledAction : Prop :=
  ∀ (s : State) (r : Run), s.seq = .running r → s.env.turns = [] →
    (r.next < r.outs.length → r.snapPending = false →
      step s = .next (audPush (r.outs.getD r.next fZero) { s with seq := .running { r with next := r.next + 1 } })) ∧
    (r.outs.length ≤ r.next → r.snapPending = true →
      step s = .next (publish (snapshot s r.ctx r.blk s.env.draws).1.1 (snapshot s r.ctx r.blk s.env.draws).1.2
        { s with
          seq := .running { r with snapPending := false }
          env := { s.env with draws := (snapshot s r.ctx r.blk s.env.draws).2 } })) ∧
    (r.next < r.outs.length → r.snapPending = true →
      let s' := { s with env := { s.env with draws := s.env.draws + 1 } }
      step s = .next (audPush (r.outs.getD r.next fZero) { s' with seq := .running { r with next := r.next + 1 } }) ∨
      step s = .next (publish (snapshot s' r.ctx r.blk s'.env.draws).1.1 (snapshot s' r.ctx r.blk s'.env.draws).1.2
        { s' with
          seq := .running { r with snapPending := false }
          env := { s'.env with draws := (snapshot s' r.ctx r.blk s'.env.draws).2 } })) ∧
    (r.outs.length ≤ r.next → r.snapPending = false →
      step s = .next { s with
        seq := .idle, flags := s.flags ||| 0b1#7, lastN := r.blk.length, lastM := r.outs.length })

/-- R454: a pending `PROCESS` that the engine alone runs completes in at most `M + 3` engine steps
(`M` is at most the number of samples taken), with `DONE` set and `LAST_N` the samples taken. (That the engine
steps when no turn is listed is the model's; notes/assumptions/3.md.) -/
def Obligations.ProcessCompletesInBoundedSteps : Prop :=
  ∀ (s : State) (c : Ctx) (n : BitVec 20) (snap : Bool), s.seq = .pending c → fetch c = .ok (.process n snap) →
    s.env.turns = [] →
    ∃ k t, k ≤ t.lastM + 3 ∧ t.lastM ≤ t.lastN ∧ runsTo k s t ∧ t.seq = .idle ∧ t.flag .done = true ∧
      t.lastN = min n.toNat s.iqf.length ∧ t.iqf = s.iqf.drop (min n.toNat s.iqf.length)

/-- R112, R466, R261: what a running `PROCESS` has left to push enters the audio FIFO in output order,
behind what it holds; when there is no room the oldest samples go. R464: the run then ends in the idle
state. (That the engine steps when no turn is listed, which R454 asks for in the end, is the model's choice;
notes/assumptions/3.md.) -/
def Obligations.AudioEntersInOutputOrder : Prop :=
  ∀ (s : State) (r : Run), s.seq = .running r → s.env.turns = [] → r.next ≤ r.outs.length →
    2 ≤ s.build.cAud → s.audf.length ≤ s.build.cAud - 1 →
    ∃ k t, runsTo k s t ∧ t.seq = .idle ∧ t.lastM = r.outs.length ∧
      t.audf = (s.audf ++ r.outs.drop r.next).drop
        ((s.audf.length + (r.outs.length - r.next)) - (s.build.cAud - 1))

/-- R61, R721: a pending command uses its latched copies only. Two states that differ only in the live
configuration registers go to next states that differ only in them. -/
def Obligations.CommandsIgnoreLiveRegisters : Prop :=
  ∀ (i : Instr) (s : State) (c : Ctx) (ra ro : BitVec 32) (f bw vol de au lo hi : F64) (m : Mode) (mu : Bool),
    s.seq = .pending c →
    ∃ t, exec i s = .next t ∧
      exec i { s with inRate := ra, outRate := ro, freqOffset := f, bandwidth := bw, volume := vol, deemphHz := de
                      audioLpfHz := au, dbMin := lo, dbMax := hi, mode := m, mute := mu } =
        .next { t with inRate := ra, outRate := ro, freqOffset := f, bandwidth := bw, volume := vol, deemphHz := de
                       audioLpfHz := au, dbMin := lo, dbMax := hi, mode := m, mute := mu }

/-! ### The agents outside -/

/-- R452, R609, R208, R117: while a command is pending or running, no step of the host, of the capture
port or of the audio port changes it, its context, its progress or the LUTs it reads. -/
def Obligations.OutsideStepsKeepTheCommandAndItsLuts : Prop :=
  ∀ (e : Event) (s : State), s.busy = true → e ≠ .reset →
    (outsideStep e s).seq = s.seq ∧ (outsideStep e s).mem = s.mem ∧ (outsideStep e s).dsp = s.dsp

/-- R620, R253, R264: the capture port reaches only the I/Q FIFO with its drop counter and flag, the
audio port only the audio FIFO with its underrun counter and flag. -/
def Obligations.PortsReachOnlyTheirFifos : Prop :=
  ∀ (s : State) (x : Cplx),
    (let t := outsideStep (.prodPush x) s
     t = { s with iqf := t.iqf, iqDrops := t.iqDrops, flags := t.flags } ∧ t.flags &&& 0b1111011#7 = s.flags &&& 0b1111011#7) ∧
    (let t := outsideStep .consPop s
     t = { s with audf := t.audf, audUnf := t.audUnf, flags := t.flags, env := { s.env with audioOut := t.env.audioOut } } ∧
      t.flags &&& 0b1101111#7 = s.flags &&& 0b1101111#7)

/-- R251: a push into a full I/Q FIFO loses the oldest sample, counts it and sets `IQ_OVF`; any other
push appends. -/
def Obligations.CapturePushDropsTheOldestWhenFull : Prop :=
  ∀ (s : State) (x : Cplx),
    (s.iqf.length = s.build.cIq - 1 →
      outsideStep (.prodPush x) s =
        { s with iqf := s.iqf.drop 1 ++ [x], iqDrops := s.iqDrops + 1#64, flags := s.flags ||| 0b100#7 }) ∧
    (s.iqf.length ≠ s.build.cIq - 1 → outsideStep (.prodPush x) s = { s with iqf := s.iqf ++ [x] })

/-- R252: after a burst of pushes the FIFO holds the newest samples that fit, in order, and the drop
counter has grown by the number lost. -/
def Obligations.BurstOfPushesKeepsTheNewest : Prop :=
  ∀ (s : State) (xs : List Cplx), 2 ≤ s.build.cIq → s.iqf.length ≤ s.build.cIq - 1 →
    let t := xs.foldl (fun s x => outsideStep (.prodPush x) s) s
    t.iqf = (s.iqf ++ xs).drop ((s.iqf.length + xs.length) - min (s.build.cIq - 1) (s.iqf.length + xs.length)) ∧
    t.iqDrops = s.iqDrops + BitVec.ofNat 64 ((s.iqf.length + xs.length) - (s.build.cIq - 1))

/-- R261: a push into a full audio FIFO loses the oldest sample, counts it and sets `AUD_OVF`; any
other push appends. -/
def Obligations.AudioPushDropsTheOldestWhenFull : Prop :=
  ∀ (s : State) (v : F64),
    (s.audf.length = s.build.cAud - 1 →
      audPush v s = { s with audf := s.audf.drop 1 ++ [v], audDrops := s.audDrops + 1#64, flags := s.flags ||| 0b1000#7 }) ∧
    (s.audf.length ≠ s.build.cAud - 1 → audPush v s = { s with audf := s.audf ++ [v] })

/-- R265, R209, R264: a pop, on the audio port or by a read of `AUD_POP`, delivers the oldest sample, or
+0.0 with the underrun counted and flagged. -/
def Obligations.AudioPopDeliversTheOldestOrSilence : Prop :=
  ∀ s : State,
    (∀ v q, s.audf = v :: q →
      outsideStep .consPop s = { s with audf := q, env := { s.env with audioOut := v } } ∧
      hostRead 0x0E8#22 s = (v.bits, { s with audf := q })) ∧
    (s.audf = [] →
      outsideStep .consPop s =
        { s with audUnf := s.audUnf + 1#64, flags := s.flags ||| 0b10000#7, env := { s.env with audioOut := ⟨0#64⟩ } } ∧
      hostRead 0x0E8#22 s = (0#64, { s with audUnf := s.audUnf + 1#64, flags := s.flags ||| 0b10000#7 }))

/-- R207, R254: a write of `IQ_PUSH_RE` sets the latch; a write of `IQ_PUSH_IM` is a push of the latch
and the value, the same push as the capture port's, and keeps the latch. -/
def Obligations.HostPushUsesTheLatch : Prop :=
  ∀ (s : State) (v : Word),
    hostWrite 0x0C0#22 v s = { s with pushRe := ⟨v⟩ } ∧
    hostWrite 0x0C8#22 v s = outsideStep (.prodPush ⟨s.pushRe, ⟨v⟩⟩) s ∧
    (hostWrite 0x0C8#22 v s).pushRe = s.pushRe

/-! ### The host bus -/

/-- R106: a misaligned access is BUS_ALIGN before any other check; the read returns 0, and only the
error record changes. -/
def Obligations.MisalignedAccessIsRecordedFirst : Prop :=
  ∀ (off : Offset) (v : Word) (s : State), off.toNat % 8 ≠ 0 →
    hostRead off s = (0#64, { s with errCode := 8#4, errAddr := off.setWidth 64, flags := s.flags ||| 0b1000000#7 }) ∧
    hostWrite off v s = { s with errCode := 8#4, errAddr := off.setWidth 64, flags := s.flags ||| 0b1000000#7 }

/-- R101, R608: an aligned access outside the registers and the four LUTs is BUS_UNMAPPED; the read
returns 0, and only the error record changes. -/
def Obligations.UnmappedAccessIsRecorded : Prop :=
  ∀ (off : Offset) (v : Word) (s : State), off.toNat % 8 = 0 → 0x118 ≤ off.toNat →
    ¬ (0x010000 ≤ off.toNat ∧ off.toNat < 0x010800) →
    ¬ (0x100000 ≤ off.toNat ∧ off.toNat < 0x100000 + 8 * s.build.fftN) →
    ¬ (0x180000 ≤ off.toNat ∧ off.toNat < 0x180000 + 8 * s.build.fftN) →
    ¬ (0x200000 ≤ off.toNat ∧ off.toNat < 0x200000 + 8 * s.build.fftN) →
    hostRead off s = (0#64, { s with errCode := 9#4, errAddr := off.setWidth 64, flags := s.flags ||| 0b1000000#7 }) ∧
    hostWrite off v s = { s with errCode := 9#4, errAddr := off.setWidth 64, flags := s.flags ||| 0b1000000#7 }

/-- R210: a write to a read-only register, or to an entry of `SPECTRUM` or `WF_ROW`, is BUS_READONLY
with no other effect. `STATUS` is not among them. -/
def Obligations.ReadOnlyWritesAreRefused : Prop :=
  ∀ (off : Offset) (v : Word) (s : State),
    (off ∈ [0x000#22, 0x008#22, 0x010#22, 0x018#22, 0x020#22, 0x048#22, 0x050#22, 0x058#22, 0x0B0#22, 0x0B8#22,
        0x0D0#22, 0x0D8#22, 0x0E0#22, 0x0E8#22, 0x0F0#22, 0x0F8#22, 0x100#22, 0x108#22, 0x110#22] ∨
      (∃ k, k < s.build.fftN ∧ (off.toNat = 0x180000 + 8 * k ∨ off.toNat = 0x200000 + 8 * k))) →
    hostWrite off v s = { s with errCode := 10#4, errAddr := off.setWidth 64, flags := s.flags ||| 0b1000000#7 }

/-- R208: `WIN_LUT` and `PALETTE` writes while idle store the entry (the palette its low 32 bits), and
every byte outside the entry stays; while busy they are BUS_LUT_BUSY and have no other effect. -/
def Obligations.LutWritesReadBackWhileIdle : Prop :=
  ∀ (off : Offset) (v : Word) (s : State), Memory.wf s.build s.mem = true →
    ((∃ k, k < s.build.fftN ∧ off.toNat = 0x100000 + 8 * k) → s.busy = false →
      let t := hostWrite off v s
      hostRead off t = (v, t) ∧ t = { s with mem := t.mem } ∧
      (∀ a, a < off.toNat ∨ off.toNat + 8 ≤ a → readByte s.build t.mem a = readByte s.build s.mem a)) ∧
    ((∃ i, i < 256 ∧ off.toNat = 0x010000 + 8 * i) → s.busy = false →
      let t := hostWrite off v s
      hostRead off t = (v &&& 0xFFFFFFFF#64, t) ∧ t = { s with mem := t.mem } ∧
      (∀ a, a < off.toNat ∨ off.toNat + 8 ≤ a → readByte s.build t.mem a = readByte s.build s.mem a)) ∧
    ((∃ k, (k < s.build.fftN ∧ off.toNat = 0x100000 + 8 * k) ∨ (k < 256 ∧ off.toNat = 0x010000 + 8 * k)) →
      s.busy = true →
      hostWrite off v s = { s with errCode := 11#4, errAddr := off.setWidth 64, flags := s.flags ||| 0b1000000#7 })

/-- R38, R41, R45 to R54, R211: a configuration register (`CTRL`, `IRQ_EN`, the two rates, `MODE` and the
seven binary64 registers) reads back what was written, its reserved bits
as 0; the write changes nothing else; a `MODE` of 6 or 7 is ignored. -/
def Obligations.ConfigurationWritesReadBack : Prop :=
  ∀ (v : Word) (s : State),
    hostWrite 0x028#22 v s = { s with mute := v.getLsbD 0 } ∧
    (hostRead 0x028#22 (hostWrite 0x028#22 v s)).1 = v &&& 0x1#64 ∧
    hostWrite 0x040#22 v s = { s with irqEn := v.extractLsb' 1 7 } ∧
    (hostRead 0x040#22 (hostWrite 0x040#22 v s)).1 = v &&& 0xFE#64 ∧
    hostWrite 0x060#22 v s = { s with inRate := v.extractLsb' 0 32 } ∧
    (hostRead 0x060#22 (hostWrite 0x060#22 v s)).1 = v &&& 0xFFFFFFFF#64 ∧
    hostWrite 0x068#22 v s = { s with outRate := v.extractLsb' 0 32 } ∧
    (hostRead 0x068#22 (hostWrite 0x068#22 v s)).1 = v &&& 0xFFFFFFFF#64 ∧
    hostWrite 0x070#22 v s = { s with freqOffset := ⟨v⟩ } ∧ (hostRead 0x070#22 (hostWrite 0x070#22 v s)).1 = v ∧
    hostWrite 0x078#22 v s = { s with bandwidth := ⟨v⟩ } ∧ (hostRead 0x078#22 (hostWrite 0x078#22 v s)).1 = v ∧
    hostWrite 0x088#22 v s = { s with volume := ⟨v⟩ } ∧ (hostRead 0x088#22 (hostWrite 0x088#22 v s)).1 = v ∧
    hostWrite 0x090#22 v s = { s with deemphHz := ⟨v⟩ } ∧ (hostRead 0x090#22 (hostWrite 0x090#22 v s)).1 = v ∧
    hostWrite 0x098#22 v s = { s with audioLpfHz := ⟨v⟩ } ∧ (hostRead 0x098#22 (hostWrite 0x098#22 v s)).1 = v ∧
    hostWrite 0x0A0#22 v s = { s with dbMin := ⟨v⟩ } ∧ (hostRead 0x0A0#22 (hostWrite 0x0A0#22 v s)).1 = v ∧
    hostWrite 0x0A8#22 v s = { s with dbMax := ⟨v⟩ } ∧ (hostRead 0x0A8#22 (hostWrite 0x0A8#22 v s)).1 = v ∧
    hostWrite 0x080#22 v s = { s with mode := (hostWrite 0x080#22 v s).mode } ∧
    (if (v.extractLsb' 0 3).toNat ≤ 5 then (hostRead 0x080#22 (hostWrite 0x080#22 v s)).1 = v &&& 0x7#64
     else hostWrite 0x080#22 v s = s)

/-- R33 to R37, R39, R42 to R44, R55 to R57, R59: what the read-only registers, `CMD` and the push
registers return; reading them changes nothing. -/
def Obligations.ReadOnlyRegistersReturnTheirElements : Prop :=
  ∀ s : State,
    hostRead 0x000#22 s = (0x4F53445200000007#64, s) ∧
    hostRead 0x008#22 s = (BitVec.ofNat 64 (2 ^ s.build.fftLog2N), s) ∧
    hostRead 0x010#22 s = (BitVec.ofNat 64 s.build.cIq, s) ∧
    hostRead 0x018#22 s = (BitVec.ofNat 64 s.build.cAud, s) ∧
    hostRead 0x020#22 s = (BitVec.ofNat 64 s.build.maxBlock, s) ∧
    hostRead 0x030#22 s = (s.lastCmd, s) ∧ hostRead 0x048#22 s = (s.errAddr, s) ∧
    hostRead 0x050#22 s = (BitVec.ofNat 64 s.lastN, s) ∧ hostRead 0x058#22 s = (BitVec.ofNat 64 s.lastM, s) ∧
    hostRead 0x0B0#22 s = (BitVec.ofNat 64 s.iqf.length, s) ∧ hostRead 0x0B8#22 s = (s.iqDrops, s) ∧
    hostRead 0x0C0#22 s = (0#64, s) ∧ hostRead 0x0C8#22 s = (0#64, s) ∧
    hostRead 0x0D0#22 s = (BitVec.ofNat 64 s.audf.length, s) ∧ hostRead 0x0D8#22 s = (s.audDrops, s) ∧
    hostRead 0x0E0#22 s = (s.audUnf, s) ∧ hostRead 0x0F0#22 s = (s.snapSeq, s)

/-- R59, R725: the four DSP views are exact while idle; while busy each read returns the next free value
of the run, whatever the DSP state holds. (`Config.draw` is the model's form of the spec's `draw`;
notes/assumptions/4.md.) -/
def Obligations.ViewRegistersAreDrawnWhileBusy : Prop :=
  ∀ s : State,
    (s.seq = .idle →
      hostRead 0x0F8#22 s = (BitVec.ofNat 64 (decimation s.dsp.curIn s.dsp.curOut), s) ∧
      hostRead 0x100#22 s = (s.dsp.phi.bits, s) ∧
      hostRead 0x108#22 s = (s.dsp.curIn.setWidth 64, s) ∧
      hostRead 0x110#22 s = (s.dsp.curOut.setWidth 64, s)) ∧
    (s.seq ≠ .idle → ∀ off ∈ [0x0F8#22, 0x100#22, 0x108#22, 0x110#22],
      hostRead off s = (Config.draw s.env.draws, { s with env := { s.env with draws := s.env.draws + 1 } }))

/-- R108: a read of a mapped, aligned offset other than `AUD_POP` changes no state of the block. -/
def Obligations.ReadsHaveNoSideEffect : Prop :=
  ∀ (off : Offset) (s : State) (g : Region), off.toNat % 8 = 0 → region s.build off = some g → off ≠ 0x0E8#22 →
    (hostRead off s).2 = { s with env := (hostRead off s).2.env }

/-- R40, R60: the fields of `STATUS`, bit by bit. -/
def Obligations.StatusWordShowsItsFields : Prop :=
  ∀ s : State, ∃ w, hostRead 0x038#22 s = (w, s) ∧
    (w.getLsbD 0 = true ↔ s.seq ≠ .idle) ∧
    w.getLsbD 1 = s.flag .done ∧ w.getLsbD 2 = s.flag .wfDirty ∧ w.getLsbD 3 = s.flag .iqOvf ∧
    w.getLsbD 4 = s.flag .audOvf ∧ w.getLsbD 5 = s.flag .audUnf ∧ w.getLsbD 6 = s.flag .cmdErr ∧
    w.getLsbD 7 = s.flag .busErr ∧ w.extractLsb' 8 4 = s.errCode ∧ w.extractLsb' 12 52 = 0#52

/-- R205: a `STATUS` write clears exactly the flags whose bit is written 1, and nothing else. -/
def Obligations.StatusWriteClearsTheNamedFlags : Prop :=
  ∀ (v : Word) (s : State),
    let t := hostWrite 0x038#22 v s
    t = { s with flags := t.flags } ∧ ∀ f : Source, t.flag f = (s.flag f && !v.getLsbD (sourceBit f))

/-- R610: the line is high exactly when some source is flagged and enabled. -/
def Obligations.InterruptLineIsTheOrOfEnabledFlags : Prop :=
  ∀ s : State, s.irq = true ↔ ∃ f : Source, s.flag f = true ∧ s.enabled f = true

/-- R700, R701: the reset input, whatever the state: every element at its reset value, the LUTs with
their reset content, a pending or running command gone. (`env` holds the model's own fields, which
notes/assumptions/2.md says go on.) -/
def Obligations.ResetSetsEveryElement : Prop :=
  ∀ s : State,
    let t := outsideStep .reset s
    t.seq = .idle ∧ t.flags = 0#7 ∧ t.errCode = 0#4 ∧ t.errAddr = 0#64 ∧ t.lastCmd = 0#64 ∧ t.lastN = 0 ∧ t.lastM = 0 ∧
    t.mute = false ∧ t.irqEn = 0#7 ∧ t.inRate = 2048000#32 ∧ t.outRate = 48000#32 ∧ t.freqOffset = ⟨0#64⟩ ∧
    t.bandwidth = ⟨0x40C7700000000000#64⟩ ∧ t.mode = .off ∧ t.volume = ⟨0x3FF0000000000000#64⟩ ∧
    t.deemphHz = ⟨0x40A0680000000000#64⟩ ∧ t.audioLpfHz = ⟨0x40CF400000000000#64⟩ ∧
    t.dbMin = ⟨0xC059000000000000#64⟩ ∧ t.dbMax = ⟨0#64⟩ ∧ t.pushRe = ⟨0#64⟩ ∧ t.iqf = [] ∧ t.audf = [] ∧
    t.iqDrops = 0#64 ∧ t.audDrops = 0#64 ∧ t.audUnf = 0#64 ∧ t.snapSeq = 0#64 ∧ t.dsp = fresh 2048000#32 48000#32 ∧
    (∀ k, k < t.build.fftN → t.win k = hann t.build k) ∧
    (∀ i, i < 256 → t.palette i = BitVec.ofNat 64 (0xFF000000 + 0x010101 * i)) ∧
    (∀ k, k < t.build.fftN → t.spectrum k = ⟨0#64⟩ ∧ t.wfRow k = 0#64) ∧
    t.build = s.build ∧ t.irq = false ∧ hostRead 0x0F8#22 t = (42#64, t) ∧ hostRead 0x100#22 t = (0#64, t) ∧
    hostRead 0x108#22 t = (2048000#64, t) ∧ hostRead 0x110#22 t = (48000#64, t)

/-! ### The chain -/

/-- R359: a non-WFM block of `n` samples gives `floor(n / D)` outputs. -/
def Obligations.NonWfmBlockOutputCount : Prop :=
  ∀ (b : Build) (c : Ctx) (dsp : Dsp) (xs : List Cplx) (d : Nat), c.mode ≠ .wfm →
    (chainBlock b c dsp xs d).1.2.length = xs.length / decimation c.inRate c.outRate

/-- R386, R385: a WFM block of `n` samples entering with `wcnt = w < D` gives `floor((w + n) / D)`
outputs and leaves `(w + n) mod D`; without persistence `w` counts as 0. -/
def Obligations.WfmBlockOutputCount : Prop :=
  ∀ (b : Build) (c : Ctx) (dsp : Dsp) (xs : List Cplx) (d : Nat), c.mode = .wfm →
    dsp.wcnt < decimation c.inRate c.outRate →
    let w := if b.wfmAccPersist = true then dsp.wcnt else 0
    (chainBlock b c dsp xs d).1.2.length = (w + xs.length) / decimation c.inRate c.outRate ∧
    (chainBlock b c dsp xs d).1.1.wcnt = (w + xs.length) % decimation c.inRate c.outRate

/-- R378: every output of an OFF block is exactly +0.0, whatever `VOLUME` holds, and of the DSP state
only the NCO phase and the channel filter move. -/
def Obligations.OffBlocksAreSilent : Prop :=
  ∀ (b : Build) (c : Ctx) (dsp : Dsp) (xs : List Cplx) (d : Nat), c.mode = .off →
    let r := (chainBlock b c dsp xs d).1
    (∀ o ∈ r.2, o = ⟨0#64⟩) ∧ r.1 = { dsp with phi := r.1.phi, ch := r.1.ch }

/-- R395: while muted, every output of every mode is +0.0. -/
def Obligations.MutedBlocksAreSilent : Prop :=
  ∀ (b : Build) (c : Ctx) (dsp : Dsp) (xs : List Cplx) (d : Nat), c.mute = true →
    ∀ o ∈ (chainBlock b c dsp xs d).1.2, o = ⟨0#64⟩

/-- R390, R383, R395: at unity volume every output of AM, NFM, LSB and USB is in [-1, 1], and every WFM
output is a NaN or in [-0.8, 0.8]. -/
def Obligations.UnityGainOutputIsLimited : Prop :=
  ∀ (b : Build) (c : Ctx) (dsp : Dsp) (xs : List Cplx) (d : Nat), c.mute = false → c.volume = fOne →
    ∀ o ∈ (chainBlock b c dsp xs d).1.2,
      if c.mode = .wfm then isNaN o = true ∨ (fle fMinus0p8 o = true ∧ fle o f0p8 = true)
      else fle fMinusOne o = true ∧ fle o fOne = true

/-- R62, R371, R375 to R384: which elements of the DSP state a block in each mode can change. -/
def Obligations.BlocksTouchOnlyTheirModesState : Prop :=
  ∀ (b : Build) (c : Ctx) (dsp : Dsp) (xs : List Cplx) (d : Nat),
    let t := (chainBlock b c dsp xs d).1.1
    t.curIn = dsp.curIn ∧ t.curOut = dsp.curOut ∧
    (c.mode = .wfm → t.post = dsp.post ∧ t.dcAm = dsp.dcAm) ∧
    (c.mode ≠ .wfm → t.de = dsp.de ∧ t.dcWfm = dsp.dcWfm ∧ t.wacc = dsp.wacc ∧ t.wcnt = dsp.wcnt) ∧
    (c.mode ≠ .am → t.dcAm = dsp.dcAm) ∧
    (c.mode ≠ .nfm → c.mode ≠ .wfm → t.prev = dsp.prev)

/-- R390: a NaN of the post-filter becomes +0.0 in the state and before the gain; any other value is
kept unclamped in the state and clamped to [-1, 1] before the gain. -/
def Obligations.PostFilterResetsNaN : Prop :=
  ∀ (c : Ctx) (a : F64) (dsp : Dsp) (y : F64) (d : Nat),
    let p := onePole a dsp.post y d
    let r := postFilter c a dsp y d
    r.1.1 = { dsp with post := r.1.1.post } ∧ isNaN r.1.1.post = false ∧
    (isNaN p.1 = true → r.1.1.post = ⟨0#64⟩ ∧ (r.1.2, r.2) = gain c ⟨0#64⟩ p.2) ∧
    (isNaN p.1 = false → r.1.1.post = p.1 ∧ (r.1.2, r.2) = gain c (clamp p.1 fMinusOne fOne) p.2 ∧
      fle fMinusOne (clamp p.1 fMinusOne fOne) = true ∧ fle (clamp p.1 fMinusOne fOne) fOne = true)

/-- R355: a one-pole coefficient is never a NaN and lies in [0, 1]; at rate 0 it is +0.0; and a corner
that is zero, negative or NaN gives +0.0. -/
def Obligations.CoefficientsLieInTheUnitInterval : Prop :=
  ∀ (fc : F64) (r : BitVec 32) (d : Nat),
    fle fZero (alpha fc r d).1 = true ∧ fle (alpha fc r d).1 fOne = true ∧
    (r = 0#32 → alpha fc r d = (⟨0#64⟩, d)) ∧
    (flt fZero fc = false → (alpha fc r d).1 = ⟨0#64⟩)

/-- R357: the decimation factor is 1 at output rate 0, and else the larger of 1 and the quotient of the
rates rounded down. -/
def Obligations.DecimationFactorIsTheClampedQuotient : Prop :=
  ∀ rin rout : BitVec 32,
    1 ≤ decimation rin rout ∧
    (rout = 0#32 → decimation rin rout = 1) ∧
    (rin.toNat < rout.toNat → decimation rin rout = 1) ∧
    (rout ≠ 0#32 → rout.toNat ≤ rin.toNat →
      decimation rin rout * rout.toNat ≤ rin.toNat ∧ rin.toNat < (decimation rin rout + 1) * rout.toNat)

/-- R353, R354: `wrap` takes a finite phase into [0, TWO_PI) without a draw, and any other to a NaN; so
the phase a block leaves is in [0, TWO_PI) or a NaN. -/
def Obligations.PhaseIsWrappedIntoOneTurn : Prop :=
  (∀ (p : F64) (d : Nat), finite p = true →
    (wrap p d).2 = d ∧ fle fZero (wrap p d).1 = true ∧ flt (wrap p d).1 fTwoPi = true ∧ fsign (wrap p d).1 = false) ∧
  (∀ (p : F64) (d : Nat), finite p = false → isNaN (wrap p d).1 = true) ∧
  (∀ (b : Build) (c : Ctx) (dsp : Dsp) (xs : List Cplx) (d : Nat),
    let phi := (chainBlock b c dsp xs d).1.1.phi
    isNaN phi = true ∨ (fle fZero phi = true ∧ flt phi fTwoPi = true))

/-- R402 (a): from a fresh state a block of zeros gives outputs of exactly +0.0 in every mode and leaves
every element but the phase and the counters at +0.0, for a volume that is finite and not negative and
an NCO increment of magnitude below 2^64 (2^64 is 0x43F0000000000000). -/
def Obligations.SilentBlockStaysSilent : Prop :=
  ∀ (b : Build) (c : Ctx) (n d : Nat), n < 2 ^ 20 → finite c.volume = true → fsign c.volume = false →
    flt ⟨0xC3F0000000000000#64⟩ (coeffs c d).1.step = true → flt (coeffs c d).1.step ⟨0x43F0000000000000#64⟩ = true →
    let r := (chainBlock b c (fresh c.inRate c.outRate) (List.replicate n cZero) d).1
    (∀ o ∈ r.2, o = ⟨0#64⟩) ∧
    r.1 = { fresh c.inRate c.outRate with phi := r.1.phi, wcnt := r.1.wcnt }

/-! ### The spectral unit -/

/-- R510: a publish makes the line and the row readable, counts the snapshot, sets `WF_DIRTY`, and leaves
every other byte of the LUT memory and all other state. -/
def Obligations.PublishedSnapshotReadsBack : Prop :=
  ∀ (s : State) (line : List F64) (row : List Word), Memory.wf s.build s.mem = true →
    line.length = s.build.fftN → row.length = s.build.fftN →
    let t := publish line row s
    (∀ k, k < s.build.fftN → t.spectrum k = line.getD k fZero ∧ t.wfRow k = row.getD k 0#64 &&& 0xFFFFFFFF#64) ∧
    (∀ a, ¬ (0x180000 ≤ a ∧ a < 0x180000 + 8 * s.build.fftN) → ¬ (0x200000 ≤ a ∧ a < 0x200000 + 8 * s.build.fftN) →
      readByte s.build t.mem a = readByte s.build s.mem a) ∧
    t = { s with mem := t.mem, snapSeq := s.snapSeq + 1#64, flags := s.flags ||| 0b10#7 }

/-- R508, R25: the palette index of a pixel lies in 0 to 255, for every dB value and display range; an
empty, inverted or NaN range gives index 0. -/
def Obligations.PaletteIndexIsInRange : Prop :=
  ∀ (c : Ctx) (db : F64) (d : Nat),
    (pixelIndex c db d).1 ≤ 255 ∧ (flt c.dbMin c.dbMax = false → pixelIndex c db d = (0, d))

/-- R313: `rev_L(i)` has bit `b` of `i` at bit `L-1-b`, and nothing above. -/
def Obligations.BitReversalReversesTheBits : Prop :=
  ∀ l i j : Nat, (bitReverse l i).testBit j = (decide (j < l) && i.testBit (l - 1 - j))

/-- R316: the 4-point reference transform of a constant block is 4 in bin 0 and zero in the others, and
that of an impulse is 1 in every bin, whatever `COS64` and `SIN64` are. -/
def Obligations.ReferenceFftOfConstantAndImpulse : Prop :=
  ∀ d : Nat,
    (let x := (fftRef 2 [⟨fOne, fZero⟩, ⟨fOne, fZero⟩, ⟨fOne, fZero⟩, ⟨fOne, fZero⟩] d).1
     x.length = 4 ∧ (x.getD 0 cZero).re = fFour ∧ feq (x.getD 0 cZero).im fZero = true ∧
     ∀ k, k ∈ [1, 2, 3] → feq (x.getD k cZero).re fZero = true ∧ feq (x.getD k cZero).im fZero = true) ∧
    (let x := (fftRef 2 [⟨fOne, fZero⟩, cZero, cZero, cZero] d).1
     x.length = 4 ∧ ∀ k, k < 4 → (x.getD k cZero).re = fOne ∧ feq (x.getD k cZero).im fZero = true)

/-! ### Numbers -/

/-- R18: the properties of the configuration functions that the model may assume. -/
def Obligations.ConfigurationFunctionsHaveTheirProperties : Prop :=
  ∀ (x y : F64) (d : Nat),
    cos64 ⟨0#64⟩ d = (fOne, d) ∧ cos64 ⟨0x8000000000000000#64⟩ d = (fOne, d) ∧
    sin64 ⟨0#64⟩ d = (⟨0#64⟩, d) ∧ sin64 ⟨0x8000000000000000#64⟩ d = (⟨0x8000000000000000#64⟩, d) ∧
    (finite x = false → isNaN (cos64 x d).1 = true ∧ isNaN (sin64 x d).1 = true) ∧
    (finite x = true →
      fle fMinusOne (cos64 x d).1 = true ∧ fle (cos64 x d).1 fOne = true ∧
      fle fMinusOne (sin64 x d).1 = true ∧ fle (sin64 x d).1 fOne = true) ∧
    (feq y fZero = true → flt fZero x = true → atan2 y x d = (y, d)) ∧
    (flt fZero y = true → feq x fZero = true → atan2 y x d = (⟨0x3FF921FB54442D18#64⟩, d)) ∧
    (isNaN x = true ∨ isNaN y = true → isNaN (atan2 y x d).1 = true) ∧
    log10 fOne d = (⟨0#64⟩, d)

/-- R15: rounding is to nearest, ties to even. With `r` units of 2^-1074 the rounded value of the exact
`n / d`, no finite value is nearer, and when another is as near, the result's encoding is even. -/
def Obligations.RoundingIsToNearestTiesToEven : Prop :=
  ∀ (n d r : Nat), 0 < d → fval (fround false n d) = .fin false r →
    ∀ (y : F64) (s : Bool) (m : Nat), fval y = .fin s m →
      ((n : Int) - r * d).natAbs ≤ ((n : Int) - m * d).natAbs ∧
      (((n : Int) - r * d).natAbs = ((n : Int) - m * d).natAbs → m ≠ r →
        (fround false n d).bits.getLsbD 0 = false)
end

