-- ==== Sys2Proof/Laws/Float.lean ====
section
/-! SUPPORT. Running computations that may draw, and the small facts about binary64 values that proofs
about the chain start from. -/

namespace Sys2Proof.Machine

/-! ### Draws -/

@[simp] theorem draw_pure {α : Type} (x : α) (d : Nat) : (pure x : Draw α) d = (x, d) := rfl

@[simp] theorem draw_bind {α β : Type} (x : Draw α) (f : α → Draw β) (d : Nat) :
    (x >>= f) d = f (x d).1 (x d).2 := rfl

@[simp] theorem draw_ite {α : Type} (p : Prop) [Decidable p] (x y : Draw α) (d : Nat) :
    (if p then x else y) d = if p then x d else y d := by
  split <;> rfl

theorem orNaN_some (x : F64) (d : Nat) : orNaN (some x) d = (x, d) := rfl

theorem orNaN_none (d : Nat) : orNaN none d = (nanOf (Config.draw d), d + 1) := rfl

/-- What an operation's result can be: the value without a draw, or a NaN with one (R16). -/
theorem orNaN_cases (r : Option F64) (d : Nat) :
    (∃ x, r = some x ∧ orNaN r d = (x, d)) ∨ (r = none ∧ orNaN r d = (nanOf (Config.draw d), d + 1)) := by
  cases r with
  | none => exact .inr ⟨rfl, rfl⟩
  | some x => exact .inl ⟨x, rfl, rfl⟩

/-- A drawn NaN is a NaN (R16). -/
theorem isNaN_nanOf (w : Word) : isNaN (nanOf w) = true := by
  unfold nanOf
  split
  · assumption
  · decide

/-- Every NaN is some drawn word's NaN (R16). -/
theorem nanOf_of_isNaN (x : F64) (h : isNaN x = true) : nanOf x.bits = x := by
  simp [nanOf, h]

/-! ### Classes of values -/

theorem fval_nan_iff (x : F64) : fval x = .nan ↔ isNaN x = true := by
  unfold fval isNaN
  by_cases h : fexp x = 2047 <;> by_cases h' : ffrac x = 0 <;> simp [h, h'] <;> split <;> simp

theorem fval_of_not_isNaN (x : F64) (h : isNaN x = false) :
    (∃ s, fval x = .inf s) ∨ ∃ s a, fval x = .fin s a := by
  cases hv : fval x with
  | nan => rw [fval_nan_iff] at hv; simp [hv] at h
  | inf s => exact .inl ⟨s, rfl⟩
  | fin s a => exact .inr ⟨s, a, rfl⟩

@[simp] theorem isNaN_fZero : isNaN fZero = false := by decide
@[simp] theorem isNaN_fOne : isNaN fOne = false := by decide
@[simp] theorem isNaN_fMinusOne : isNaN fMinusOne = false := by decide
@[simp] theorem fval_fZero : fval fZero = .fin false 0 := by decide

/-! ### Rounding -/

/-- The rounded encoding never exceeds that of infinity. -/
theorem roundBits_le (n d : Nat) : roundBits n d ≤ 2047 * 2 ^ 52 := by
  unfold roundBits
  exact Nat.min_le_right _ _

theorem fsign_withSign (s : Bool) {m : Nat} (hm : m < 2 ^ 63) : fsign (withSign s m) = s := by
  unfold fsign withSign
  rw [BitVec.getLsbD_ofNat]
  cases s
  · simp only [Bool.false_eq_true, if_false, Nat.zero_add]
    simp [Nat.testBit_lt_two_pow hm]
  · simp only [if_true]
    rw [Nat.testBit_two_pow_add_eq, Nat.testBit_lt_two_pow hm]
    rfl

theorem magnitude_withSign (s : Bool) {m : Nat} (hm : m < 2 ^ 63) : (withSign s m).bits.toNat % 2 ^ 63 = m := by
  unfold withSign
  cases s <;> simp [BitVec.toNat_ofNat] <;> omega

theorem fexp_eq (x : F64) : fexp x = x.bits.toNat / 2 ^ 52 % 2 ^ 11 := by
  simp [fexp, BitVec.extractLsb'_toNat, Nat.shiftRight_eq_div_pow]

theorem ffrac_eq (x : F64) : ffrac x = x.bits.toNat % 2 ^ 52 := by
  simp [ffrac, BitVec.extractLsb'_toNat]

theorem fexp_withSign (s : Bool) {m : Nat} (hm : m < 2 ^ 63) : fexp (withSign s m) = m / 2 ^ 52 := by
  rw [fexp_eq]
  unfold withSign
  cases s <;> simp [BitVec.toNat_ofNat] <;> omega

theorem ffrac_withSign (s : Bool) (m : Nat) : ffrac (withSign s m) = m % 2 ^ 52 := by
  rw [ffrac_eq]
  unfold withSign
  cases s <;> simp only [BitVec.toNat_ofNat, Bool.false_eq_true, if_false, if_true] <;> omega

/-- A rounded value is never a NaN. -/
theorem isNaN_fround (s : Bool) (n d : Nat) : isNaN (fround s n d) = false := by
  have h := roundBits_le n d
  have h63 : roundBits n d < 2 ^ 63 := by omega
  unfold isNaN fround
  rw [fexp_withSign s h63, ffrac_withSign s]
  generalize roundBits n d = m at h
  simp only [Bool.and_eq_false_iff, beq_eq_false_iff_ne, bne_eq_false_iff_eq, ne_eq]
  omega

theorem isNaN_fInf (s : Bool) : isNaN (fInf s) = false := by cases s <;> decide

/-! ### Which operations give a NaN -/

/-- A result without a draw is no NaN: sum. -/
theorem isNaN_addResult {x y z : F64} (h : addResult x y = some z) : isNaN z = false := by
  unfold addResult at h
  split at h
  · cases h
  · cases h
  · split at h
    · obtain rfl := Option.some.inj h; exact isNaN_fInf _
    · cases h
  · obtain rfl := Option.some.inj h; exact isNaN_fInf _
  · obtain rfl := Option.some.inj h; exact isNaN_fInf _
  · split at h
    · obtain rfl := Option.some.inj h; exact isNaN_fround _ _ _
    · split at h
      · obtain rfl := Option.some.inj h; exact isNaN_fround _ _ _
      · split at h
        · obtain rfl := Option.some.inj h; exact isNaN_fround _ _ _
        · obtain rfl := Option.some.inj h; exact isNaN_fZero

/-- A result without a draw is no NaN: product. -/
theorem isNaN_mulResult {x y z : F64} (h : mulResult x y = some z) : isNaN z = false := by
  unfold mulResult at h
  split at h
  · cases h
  · cases h
  · obtain rfl := Option.some.inj h; exact isNaN_fInf _
  · split at h
    · cases h
    · obtain rfl := Option.some.inj h; exact isNaN_fInf _
  · split at h
    · cases h
    · obtain rfl := Option.some.inj h; exact isNaN_fInf _
  · obtain rfl := Option.some.inj h; exact isNaN_fround _ _ _

/-- A finite sum, product or rounding: two finite operands never give a NaN sum or product. -/
theorem addResult_finite {x y : F64} {s t : Bool} {a b : Nat} (hx : fval x = .fin s a) (hy : fval y = .fin t b) :
    ∃ z, addResult x y = some z := by
  unfold addResult
  rw [hx, hy]
  dsimp only
  split
  · exact ⟨_, rfl⟩
  · split
    · exact ⟨_, rfl⟩
    · split
      · exact ⟨_, rfl⟩
      · exact ⟨_, rfl⟩

theorem mulResult_finite {x y : F64} {s t : Bool} {a b : Nat} (hx : fval x = .fin s a) (hy : fval y = .fin t b) :
    mulResult x y = some (fround (s != t) (a * b) (1 <<< 1074)) := by
  unfold mulResult
  rw [hx, hy]

/-- Every value in [-1, 1] is left as it is, and every value comes into [-1, 1] (R18). -/
theorem inUnit_range (x : F64) : fle fMinusOne (inUnit x) = true ∧ fle (inUnit x) fOne = true := by
  unfold inUnit
  split
  · rename_i h
    simpa [Bool.and_eq_true] using h
  · decide

end Sys2Proof.Machine
end

