-- ==== Sys2Proof/Laws/Chain.lean ====
section
/-! SUPPORT. What one sample can do to the loop of `ChainBlock`, said once: which path it takes, and
whether the group it closes emits an output. -/

namespace Sys2Proof.Machine

/-- The decimation factor is at least 1 (R357). -/
theorem decimation_pos (rin rout : BitVec 32) : 1 ≤ decimation rin rout := by
  unfold decimation
  split
  · exact Nat.le_refl 1
  · exact Nat.le_max_left 1 _

/-- The non-WFM path (R358): one more sample in the group, or a closed group and one output. -/
theorem averagedSample_cases (c : Ctx) (k : Coeffs) (l : Loop) (d : Nat) :
    (l.cnt + 1 ≠ k.decim ∧ ∃ acc d', averagedSample c k l d = ({ l with acc := acc, cnt := l.cnt + 1 }, d')) ∨
    (l.cnt + 1 = k.decim ∧ ∃ avg d',
      averagedSample c k l d =
        ({ dsp := (demodAveraged c k l.dsp avg d').1.1, acc := cZero, cnt := 0,
           outs := (demodAveraged c k l.dsp avg d').1.2 :: l.outs }, (demodAveraged c k l.dsp avg d').2)) := by
  by_cases h : l.cnt + 1 = k.decim
  · exact .inr ⟨h, _, _, by simp only [averagedSample, draw_bind, h, if_true]; rfl⟩
  · exact .inl ⟨h, _, _, by simp only [averagedSample, draw_bind, h, if_false]; rfl⟩

/-- The WFM path (R382): one more sample in the group, or a closed group and one output. -/
theorem wfmSample_cases (c : Ctx) (k : Coeffs) (l : Loop) (d : Nat) :
    ∃ de wacc,
      (l.dsp.wcnt + 1 ≠ k.decim ∧ ∃ d', wfmSample c k l d =
        ({ l with dsp := { l.dsp with prev := l.dsp.ch, de := de, wacc := wacc, wcnt := l.dsp.wcnt + 1 } }, d')) ∨
      (l.dsp.wcnt + 1 = k.decim ∧ ∃ v d', wfmSample c k l d =
        let r := wfmOut c { l.dsp with prev := l.dsp.ch, de := de, wacc := wacc, wcnt := l.dsp.wcnt + 1 } v d'
        ({ l with dsp := { r.1.1 with wacc := fZero, wcnt := 0 }, outs := r.1.2 :: l.outs }, r.2)) := by
  by_cases h : l.dsp.wcnt + 1 = k.decim
  · exact ⟨_, _, .inr ⟨h, _, _, by simp only [wfmSample, draw_bind, h, if_true]; rfl⟩⟩
  · exact ⟨_, _, .inl ⟨h, _, by simp only [wfmSample, draw_bind, h, if_false]; rfl⟩⟩

/-- One sample: the channel filter, then the path of the mode (R350). -/
theorem chainSample_cases (c : Ctx) (k : Coeffs) (i : Nat) (x : Cplx) (l : Loop) (d : Nat) :
    ∃ ch d',
      (c.mode = .wfm ∧ chainSample c k i x l d = wfmSample c k { l with dsp := { l.dsp with ch := ch } } d') ∨
      (c.mode ≠ .wfm ∧ chainSample c k i x l d = averagedSample c k { l with dsp := { l.dsp with ch := ch } } d') := by
  cases hm : c.mode <;>
    simp only [chainSample, draw_bind, hm, reduceCtorEq, ne_eq, not_false_eq_true, not_true_eq_false, true_and,
      false_and, or_false, false_or] <;> exact ⟨_, _, rfl⟩

@[simp] theorem chainLoop_nil (c : Ctx) (k : Coeffs) (i : Nat) (l : Loop) (d : Nat) :
    chainLoop c k i [] l d = (l, d) := rfl

@[simp] theorem chainLoop_cons (c : Ctx) (k : Coeffs) (i : Nat) (x : Cplx) (xs : List Cplx) (l : Loop) (d : Nat) :
    chainLoop c k i (x :: xs) l d =
      chainLoop c k (i + 1) xs (chainSample c k i x l d).1 (chainSample c k i x l d).2 := rfl

end Sys2Proof.Machine
end

