-- ==== Sys2Proof/Laws/Memory.lean ====
section
/-! SUPPORT. The LUT memory: every operation keeps the canonical form, a read gives what was last written
there, and a write leaves every other byte as it was. -/

namespace Sys2Proof.Machine

/-! ### The canonical form -/

theorem wfFrom_weaken (b : Build) {lo lo' : Nat} (h : lo ≤ lo') (m : List Host.Cell)
    (hm : wfFrom b lo' m = true) : wfFrom b lo m = true := by
  cases m with
  | nil => rfl
  | cons c m =>
    obtain ⟨k, v⟩ := c
    simp only [wfFrom, Bool.and_eq_true, decide_eq_true_eq] at hm ⊢
    exact ⟨⟨by omega, hm.1.2⟩, hm.2⟩

theorem wfFrom_insertCell (b : Build) {a : Nat} {v : Byte} (hv : v ≠ resetByte b a) :
    ∀ (m : List Host.Cell) (lo : Nat), lo ≤ a → wfFrom b lo m = true → wfFrom b lo (insertCell m a v) = true := by
  intro m
  induction m with
  | nil => intro lo hlo _; simp [insertCell, wfFrom, hlo, hv]
  | cons c m ih =>
    obtain ⟨k, w⟩ := c
    intro lo hlo hm
    simp only [wfFrom, Bool.and_eq_true, decide_eq_true_eq] at hm
    simp only [insertCell]
    split
    · rename_i hlt
      simp only [wfFrom, Bool.and_eq_true, decide_eq_true_eq, bne_iff_ne]
      exact ⟨⟨hlo, hv⟩, ⟨by omega, by simpa using hm.1.2⟩, hm.2⟩
    · split
      · rename_i _ heq
        subst heq
        simp only [wfFrom, Bool.and_eq_true, decide_eq_true_eq, bne_iff_ne]
        exact ⟨⟨hlo, hv⟩, hm.2⟩
      · simp only [wfFrom, Bool.and_eq_true, decide_eq_true_eq]
        exact ⟨hm.1, ih _ (by omega) hm.2⟩

theorem wfFrom_eraseCell (b : Build) (a : Nat) :
    ∀ (m : List Host.Cell) (lo : Nat), wfFrom b lo m = true → wfFrom b lo (eraseCell m a) = true := by
  intro m
  induction m with
  | nil => intro lo _; rfl
  | cons c m ih =>
    obtain ⟨k, w⟩ := c
    intro lo hm
    simp only [wfFrom, Bool.and_eq_true, decide_eq_true_eq] at hm
    simp only [eraseCell]
    split
    · exact wfFrom_weaken b (by omega) m hm.2
    · simp only [wfFrom, Bool.and_eq_true, decide_eq_true_eq]
      exact ⟨hm.1, ih _ hm.2⟩

/-- Writing a byte keeps the canonical form. -/
theorem writeByte_wf (b : Build) (m : List Host.Cell) (a : Nat) (v : Byte) (hm : Memory.wf b m = true) :
    Memory.wf b (writeByte b m a v) = true := by
  unfold Memory.wf writeByte at *
  split
  · exact wfFrom_eraseCell b a m 0 hm
  · rename_i hv
    exact wfFrom_insertCell b hv m 0 (Nat.zero_le _) hm

theorem foldl_writeByte_wf (b : Build) (a : Nat) (v : Word) :
    ∀ (is : List Nat) (m : List Host.Cell), Memory.wf b m = true →
      Memory.wf b (is.foldl (fun m i => writeByte b m (a + i) (byteOf v i)) m) = true := by
  intro is
  induction is with
  | nil => intro m h; exact h
  | cons i is ih => intro m h; exact ih _ (writeByte_wf b m _ _ h)

/-- Writing an entry keeps the canonical form. -/
theorem writeWord_wf (b : Build) (m : List Host.Cell) (a : Nat) (v : Word) (hm : Memory.wf b m = true) :
    Memory.wf b (writeWord b m a v) = true :=
  foldl_writeByte_wf b a v _ m hm

/-- Writing consecutive entries keeps the canonical form. -/
theorem writeWords_wf (b : Build) (vs : List Word) :
    ∀ (m : List Host.Cell) (a : Nat), Memory.wf b m = true → Memory.wf b (writeWords b m a vs) = true := by
  induction vs with
  | nil => intro m a h; exact h
  | cons v vs ih => intro m a h; exact ih _ _ (writeWord_wf b m a v h)

/-- The empty list is the canonical memory of a block right after reset. -/
theorem wf_nil (b : Build) : Memory.wf b [] = true := rfl

/-! ### Reading after writing -/

theorem lookup_below (b : Build) {a : Nat} :
    ∀ (m : List Host.Cell) (lo : Nat), wfFrom b lo m = true → a < lo → lookup m a = none := by
  intro m
  induction m with
  | nil => intro lo _ _; rfl
  | cons c m ih =>
    obtain ⟨k, w⟩ := c
    intro lo hm hlt
    simp only [wfFrom, Bool.and_eq_true, decide_eq_true_eq] at hm
    simp only [lookup]
    rw [if_neg (by omega)]
    exact ih _ hm.2 (by omega)

theorem lookup_insertCell_same (m : List Host.Cell) (a : Nat) (v : Byte) :
    lookup (insertCell m a v) a = some v := by
  induction m with
  | nil => simp [insertCell, lookup]
  | cons c m ih =>
    obtain ⟨k, w⟩ := c
    simp only [insertCell]
    split
    · simp [lookup]
    · split
      · simp [lookup]
      · rename_i h1 h2
        simp only [lookup]
        rw [if_neg (by omega)]
        exact ih

theorem lookup_insertCell_other (m : List Host.Cell) {a c : Nat} (v : Byte) (h : c ≠ a) :
    lookup (insertCell m a v) c = lookup m c := by
  induction m with
  | nil => simp [insertCell, lookup, Ne.symm h]
  | cons x m ih =>
    obtain ⟨k, w⟩ := x
    simp only [insertCell]
    split
    · simp [lookup, Ne.symm h]
    · split
      · rename_i _ heq
        subst heq
        simp [lookup, Ne.symm h]
      · simp only [lookup, ih]

theorem lookup_eraseCell_same (b : Build) {a : Nat} :
    ∀ (m : List Host.Cell) (lo : Nat), wfFrom b lo m = true → lookup (eraseCell m a) a = none := by
  intro m
  induction m with
  | nil => intro lo _; rfl
  | cons c m ih =>
    obtain ⟨k, w⟩ := c
    intro lo hm
    simp only [wfFrom, Bool.and_eq_true, decide_eq_true_eq] at hm
    simp only [eraseCell]
    split
    · exact lookup_below b m _ hm.2 (by omega)
    · rename_i hne
      simp only [lookup]
      rw [if_neg hne]
      exact ih _ hm.2

theorem lookup_eraseCell_other (m : List Host.Cell) {a c : Nat} (h : c ≠ a) :
    lookup (eraseCell m a) c = lookup m c := by
  induction m with
  | nil => rfl
  | cons x m ih =>
    obtain ⟨k, w⟩ := x
    simp only [eraseCell]
    split
    · rename_i heq
      subst heq
      simp [lookup, Ne.symm h]
    · simp only [lookup, ih]

/-- A byte written is the byte read. -/
theorem readByte_writeByte_same (b : Build) (m : List Host.Cell) (a : Nat) (v : Byte)
    (hm : Memory.wf b m = true) : readByte b (writeByte b m a v) a = v := by
  unfold readByte writeByte
  split
  · rename_i hv
    rw [lookup_eraseCell_same b m 0 hm, hv]
    rfl
  · rw [lookup_insertCell_same]
    rfl

/-- A write of one byte leaves every other byte alone. -/
theorem readByte_writeByte_other (b : Build) (m : List Host.Cell) {a c : Nat} (v : Byte) (h : c ≠ a) :
    readByte b (writeByte b m a v) c = readByte b m c := by
  unfold readByte writeByte
  split
  · rw [lookup_eraseCell_other m h]
  · rw [lookup_insertCell_other m v h]

theorem readByte_foldl_other (b : Build) (a : Nat) (v : Word) {c : Nat} :
    ∀ (is : List Nat) (m : List Host.Cell), (∀ i ∈ is, c ≠ a + i) →
      readByte b (is.foldl (fun m i => writeByte b m (a + i) (byteOf v i)) m) c = readByte b m c := by
  intro is
  induction is with
  | nil => intro m _; rfl
  | cons i is ih =>
    intro m h
    simp only [List.foldl_cons]
    rw [ih _ (fun j hj => h j (List.mem_cons_of_mem _ hj))]
    exact readByte_writeByte_other b m _ (h i List.mem_cons_self)

theorem readByte_foldl_same (b : Build) (a : Nat) (v : Word) {i : Nat} :
    ∀ (is : List Nat) (m : List Host.Cell), Memory.wf b m = true → i ∈ is →
      readByte b (is.foldl (fun m i => writeByte b m (a + i) (byteOf v i)) m) (a + i) = byteOf v i := by
  intro is
  induction is with
  | nil => intro m _ h; cases h
  | cons j is ih =>
    intro m hm h
    simp only [List.foldl_cons]
    by_cases hi : i ∈ is
    · exact ih _ (writeByte_wf b m _ _ hm) hi
    · have hij : i = j := by simpa [hi] using h
      subst hij
      rw [readByte_foldl_other b a v is _ (fun k hk => by
        have : i ≠ k := fun e => hi (e ▸ hk)
        omega)]
      exact readByte_writeByte_same b m _ _ hm

/-- An entry written: each of its eight bytes is the byte of the word (R105). -/
theorem readByte_writeWord_same (b : Build) (m : List Host.Cell) (a : Nat) (v : Word) {i : Nat} (hi : i < 8)
    (hm : Memory.wf b m = true) : readByte b (writeWord b m a v) (a + i) = byteOf v i :=
  readByte_foldl_same b a v _ m hm (List.mem_range.mpr hi)

/-- A write of an entry leaves every byte outside it alone. -/
theorem readByte_writeWord_other (b : Build) (m : List Host.Cell) (a : Nat) (v : Word) {c : Nat}
    (h : c < a ∨ a + 8 ≤ c) : readByte b (writeWord b m a v) c = readByte b m c := by
  refine readByte_foldl_other b a v _ m (fun i hi => ?_)
  have := List.mem_range.mp hi
  omega

/-- Little-endian: the word of the bytes of a word is that word (R105). -/
theorem wordOfBytes_byteOf (v : Word) : wordOfBytes ((List.range 8).map fun i => byteOf v i) = v := by
  apply BitVec.eq_of_getLsbD_eq
  intro i hi
  simp only [wordOfBytes, byteOf, List.range_succ, List.range_zero]
  simp [BitVec.getLsbD_or, BitVec.getLsbD_shiftLeft, BitVec.getLsbD_setWidth, BitVec.getLsbD_extractLsb']
  interval_cases i <;> simp

theorem readWord_congr (b : Build) (m m' : List Host.Cell) (a : Nat)
    (h : ∀ i < 8, readByte b m (a + i) = readByte b m' (a + i)) : readWord b m a = readWord b m' a := by
  unfold readWord
  congr 1
  exact List.map_congr_left fun i hi => h i (List.mem_range.mp hi)

/-- An entry written is the entry read. -/
theorem readWord_writeWord_same (b : Build) (m : List Host.Cell) (a : Nat) (v : Word)
    (hm : Memory.wf b m = true) : readWord b (writeWord b m a v) a = v := by
  unfold readWord
  rw [show ((List.range 8).map fun i => readByte b (writeWord b m a v) (a + i)) =
      (List.range 8).map fun i => byteOf v i from
    List.map_congr_left fun i hi => readByte_writeWord_same b m a v (List.mem_range.mp hi) hm]
  exact wordOfBytes_byteOf v

/-- A write of an entry leaves every entry that shares no byte with it alone. -/
theorem readWord_writeWord_other (b : Build) (m : List Host.Cell) (a : Nat) (v : Word) {c : Nat}
    (h : c + 8 ≤ a ∨ a + 8 ≤ c) : readWord b (writeWord b m a v) c = readWord b m c :=
  readWord_congr b _ _ c fun i hi => readByte_writeWord_other b m a v (by omega)

/-! ### Consecutive entries -/

theorem readByte_writeWords_other (b : Build) (vs : List Word) {c : Nat} :
    ∀ (m : List Host.Cell) (a : Nat), c < a ∨ a + 8 * vs.length ≤ c →
      readByte b (writeWords b m a vs) c = readByte b m c := by
  induction vs with
  | nil => intro m a _; rfl
  | cons v vs ih =>
    intro m a h
    simp only [List.length_cons] at h
    simp only [writeWords]
    rw [ih _ _ (by omega), readByte_writeWord_other b m a v (by omega)]

theorem readWord_writeWords_other (b : Build) (vs : List Word) {c : Nat} (m : List Host.Cell) (a : Nat)
    (h : c + 8 ≤ a ∨ a + 8 * vs.length ≤ c) :
    readWord b (writeWords b m a vs) c = readWord b m c :=
  readWord_congr b _ _ c fun i hi => readByte_writeWords_other b vs m a (by omega)

/-- Entry `k` of the entries written from `a` on. -/
theorem readWord_writeWords_same (b : Build) (vs : List Word) :
    ∀ (m : List Host.Cell) (a k : Nat) (hk : k < vs.length), Memory.wf b m = true →
      readWord b (writeWords b m a vs) (a + 8 * k) = vs[k] := by
  induction vs with
  | nil => intro m a k hk; cases hk
  | cons v vs ih =>
    intro m a k hk hm
    simp only [writeWords]
    cases k with
    | zero =>
      rw [readWord_writeWords_other b vs _ _ (by omega)]
      simpa using readWord_writeWord_same b m a v hm
    | succ k =>
      have hk' : k < vs.length := by simpa using hk
      have := ih (writeWord b m a v) (a + 8) k hk' (writeWord_wf b m a v hm)
      rw [show a + 8 * (k + 1) = a + 8 + 8 * k by omega]
      simpa using this

end Sys2Proof.Machine
end

