-- ==== Sys2Proof/Laws/State.lean ====
section
/-! SUPPORT. What each named update of the state does to each field: one lemma a field, true by rfl. -/

namespace Sys2Proof.Machine

/-! ### setFlag -/

@[simp] theorem setFlag_build (f : Source) (s : State) :
    (setFlag f s).build = s.build := rfl
@[simp] theorem setFlag_seq (f : Source) (s : State) :
    (setFlag f s).seq = s.seq := rfl
@[simp] theorem setFlag_flags (f : Source) (s : State) :
    (setFlag f s).flags = s.flags ||| sourceMask f := rfl
@[simp] theorem setFlag_errCode (f : Source) (s : State) :
    (setFlag f s).errCode = s.errCode := rfl
@[simp] theorem setFlag_errAddr (f : Source) (s : State) :
    (setFlag f s).errAddr = s.errAddr := rfl
@[simp] theorem setFlag_lastCmd (f : Source) (s : State) :
    (setFlag f s).lastCmd = s.lastCmd := rfl
@[simp] theorem setFlag_lastN (f : Source) (s : State) :
    (setFlag f s).lastN = s.lastN := rfl
@[simp] theorem setFlag_lastM (f : Source) (s : State) :
    (setFlag f s).lastM = s.lastM := rfl
@[simp] theorem setFlag_mute (f : Source) (s : State) :
    (setFlag f s).mute = s.mute := rfl
@[simp] theorem setFlag_irqEn (f : Source) (s : State) :
    (setFlag f s).irqEn = s.irqEn := rfl
@[simp] theorem setFlag_inRate (f : Source) (s : State) :
    (setFlag f s).inRate = s.inRate := rfl
@[simp] theorem setFlag_outRate (f : Source) (s : State) :
    (setFlag f s).outRate = s.outRate := rfl
@[simp] theorem setFlag_freqOffset (f : Source) (s : State) :
    (setFlag f s).freqOffset = s.freqOffset := rfl
@[simp] theorem setFlag_bandwidth (f : Source) (s : State) :
    (setFlag f s).bandwidth = s.bandwidth := rfl
@[simp] theorem setFlag_mode (f : Source) (s : State) :
    (setFlag f s).mode = s.mode := rfl
@[simp] theorem setFlag_volume (f : Source) (s : State) :
    (setFlag f s).volume = s.volume := rfl
@[simp] theorem setFlag_deemphHz (f : Source) (s : State) :
    (setFlag f s).deemphHz = s.deemphHz := rfl
@[simp] theorem setFlag_audioLpfHz (f : Source) (s : State) :
    (setFlag f s).audioLpfHz = s.audioLpfHz := rfl
@[simp] theorem setFlag_dbMin (f : Source) (s : State) :
    (setFlag f s).dbMin = s.dbMin := rfl
@[simp] theorem setFlag_dbMax (f : Source) (s : State) :
    (setFlag f s).dbMax = s.dbMax := rfl
@[simp] theorem setFlag_pushRe (f : Source) (s : State) :
    (setFlag f s).pushRe = s.pushRe := rfl
@[simp] theorem setFlag_iqf (f : Source) (s : State) :
    (setFlag f s).iqf = s.iqf := rfl
@[simp] theorem setFlag_audf (f : Source) (s : State) :
    (setFlag f s).audf = s.audf := rfl
@[simp] theorem setFlag_iqDrops (f : Source) (s : State) :
    (setFlag f s).iqDrops = s.iqDrops := rfl
@[simp] theorem setFlag_audDrops (f : Source) (s : State) :
    (setFlag f s).audDrops = s.audDrops := rfl
@[simp] theorem setFlag_audUnf (f : Source) (s : State) :
    (setFlag f s).audUnf = s.audUnf := rfl
@[simp] theorem setFlag_snapSeq (f : Source) (s : State) :
    (setFlag f s).snapSeq = s.snapSeq := rfl
@[simp] theorem setFlag_dsp (f : Source) (s : State) :
    (setFlag f s).dsp = s.dsp := rfl
@[simp] theorem setFlag_mem (f : Source) (s : State) :
    (setFlag f s).mem = s.mem := rfl
@[simp] theorem setFlag_env (f : Source) (s : State) :
    (setFlag f s).env = s.env := rfl

/-! ### clearFlags -/

@[simp] theorem clearFlags_build (v : Word) (s : State) :
    (clearFlags v s).build = s.build := rfl
@[simp] theorem clearFlags_seq (v : Word) (s : State) :
    (clearFlags v s).seq = s.seq := rfl
@[simp] theorem clearFlags_flags (v : Word) (s : State) :
    (clearFlags v s).flags = s.flags &&& ~~~(v.extractLsb' 1 7) := rfl
@[simp] theorem clearFlags_errCode (v : Word) (s : State) :
    (clearFlags v s).errCode = s.errCode := rfl
@[simp] theorem clearFlags_errAddr (v : Word) (s : State) :
    (clearFlags v s).errAddr = s.errAddr := rfl
@[simp] theorem clearFlags_lastCmd (v : Word) (s : State) :
    (clearFlags v s).lastCmd = s.lastCmd := rfl
@[simp] theorem clearFlags_lastN (v : Word) (s : State) :
    (clearFlags v s).lastN = s.lastN := rfl
@[simp] theorem clearFlags_lastM (v : Word) (s : State) :
    (clearFlags v s).lastM = s.lastM := rfl
@[simp] theorem clearFlags_mute (v : Word) (s : State) :
    (clearFlags v s).mute = s.mute := rfl
@[simp] theorem clearFlags_irqEn (v : Word) (s : State) :
    (clearFlags v s).irqEn = s.irqEn := rfl
@[simp] theorem clearFlags_inRate (v : Word) (s : State) :
    (clearFlags v s).inRate = s.inRate := rfl
@[simp] theorem clearFlags_outRate (v : Word) (s : State) :
    (clearFlags v s).outRate = s.outRate := rfl
@[simp] theorem clearFlags_freqOffset (v : Word) (s : State) :
    (clearFlags v s).freqOffset = s.freqOffset := rfl
@[simp] theorem clearFlags_bandwidth (v : Word) (s : State) :
    (clearFlags v s).bandwidth = s.bandwidth := rfl
@[simp] theorem clearFlags_mode (v : Word) (s : State) :
    (clearFlags v s).mode = s.mode := rfl
@[simp] theorem clearFlags_volume (v : Word) (s : State) :
    (clearFlags v s).volume = s.volume := rfl
@[simp] theorem clearFlags_deemphHz (v : Word) (s : State) :
    (clearFlags v s).deemphHz = s.deemphHz := rfl
@[simp] theorem clearFlags_audioLpfHz (v : Word) (s : State) :
    (clearFlags v s).audioLpfHz = s.audioLpfHz := rfl
@[simp] theorem clearFlags_dbMin (v : Word) (s : State) :
    (clearFlags v s).dbMin = s.dbMin := rfl
@[simp] theorem clearFlags_dbMax (v : Word) (s : State) :
    (clearFlags v s).dbMax = s.dbMax := rfl
@[simp] theorem clearFlags_pushRe (v : Word) (s : State) :
    (clearFlags v s).pushRe = s.pushRe := rfl
@[simp] theorem clearFlags_iqf (v : Word) (s : State) :
    (clearFlags v s).iqf = s.iqf := rfl
@[simp] theorem clearFlags_audf (v : Word) (s : State) :
    (clearFlags v s).audf = s.audf := rfl
@[simp] theorem clearFlags_iqDrops (v : Word) (s : State) :
    (clearFlags v s).iqDrops = s.iqDrops := rfl
@[simp] theorem clearFlags_audDrops (v : Word) (s : State) :
    (clearFlags v s).audDrops = s.audDrops := rfl
@[simp] theorem clearFlags_audUnf (v : Word) (s : State) :
    (clearFlags v s).audUnf = s.audUnf := rfl
@[simp] theorem clearFlags_snapSeq (v : Word) (s : State) :
    (clearFlags v s).snapSeq = s.snapSeq := rfl
@[simp] theorem clearFlags_dsp (v : Word) (s : State) :
    (clearFlags v s).dsp = s.dsp := rfl
@[simp] theorem clearFlags_mem (v : Word) (s : State) :
    (clearFlags v s).mem = s.mem := rfl
@[simp] theorem clearFlags_env (v : Word) (s : State) :
    (clearFlags v s).env = s.env := rfl

/-! ### cmdError -/

@[simp] theorem cmdError_build (e : CmdErr) (s : State) :
    (cmdError e s).build = s.build := rfl
@[simp] theorem cmdError_seq (e : CmdErr) (s : State) :
    (cmdError e s).seq = s.seq := rfl
@[simp] theorem cmdError_flags (e : CmdErr) (s : State) :
    (cmdError e s).flags = s.flags ||| sourceMask .cmdErr := rfl
@[simp] theorem cmdError_errCode (e : CmdErr) (s : State) :
    (cmdError e s).errCode = cmdErrCode e := rfl
@[simp] theorem cmdError_errAddr (e : CmdErr) (s : State) :
    (cmdError e s).errAddr = s.errAddr := rfl
@[simp] theorem cmdError_lastCmd (e : CmdErr) (s : State) :
    (cmdError e s).lastCmd = s.lastCmd := rfl
@[simp] theorem cmdError_lastN (e : CmdErr) (s : State) :
    (cmdError e s).lastN = s.lastN := rfl
@[simp] theorem cmdError_lastM (e : CmdErr) (s : State) :
    (cmdError e s).lastM = s.lastM := rfl
@[simp] theorem cmdError_mute (e : CmdErr) (s : State) :
    (cmdError e s).mute = s.mute := rfl
@[simp] theorem cmdError_irqEn (e : CmdErr) (s : State) :
    (cmdError e s).irqEn = s.irqEn := rfl
@[simp] theorem cmdError_inRate (e : CmdErr) (s : State) :
    (cmdError e s).inRate = s.inRate := rfl
@[simp] theorem cmdError_outRate (e : CmdErr) (s : State) :
    (cmdError e s).outRate = s.outRate := rfl
@[simp] theorem cmdError_freqOffset (e : CmdErr) (s : State) :
    (cmdError e s).freqOffset = s.freqOffset := rfl
@[simp] theorem cmdError_bandwidth (e : CmdErr) (s : State) :
    (cmdError e s).bandwidth = s.bandwidth := rfl
@[simp] theorem cmdError_mode (e : CmdErr) (s : State) :
    (cmdError e s).mode = s.mode := rfl
@[simp] theorem cmdError_volume (e : CmdErr) (s : State) :
    (cmdError e s).volume = s.volume := rfl
@[simp] theorem cmdError_deemphHz (e : CmdErr) (s : State) :
    (cmdError e s).deemphHz = s.deemphHz := rfl
@[simp] theorem cmdError_audioLpfHz (e : CmdErr) (s : State) :
    (cmdError e s).audioLpfHz = s.audioLpfHz := rfl
@[simp] theorem cmdError_dbMin (e : CmdErr) (s : State) :
    (cmdError e s).dbMin = s.dbMin := rfl
@[simp] theorem cmdError_dbMax (e : CmdErr) (s : State) :
    (cmdError e s).dbMax = s.dbMax := rfl
@[simp] theorem cmdError_pushRe (e : CmdErr) (s : State) :
    (cmdError e s).pushRe = s.pushRe := rfl
@[simp] theorem cmdError_iqf (e : CmdErr) (s : State) :
    (cmdError e s).iqf = s.iqf := rfl
@[simp] theorem cmdError_audf (e : CmdErr) (s : State) :
    (cmdError e s).audf = s.audf := rfl
@[simp] theorem cmdError_iqDrops (e : CmdErr) (s : State) :
    (cmdError e s).iqDrops = s.iqDrops := rfl
@[simp] theorem cmdError_audDrops (e : CmdErr) (s : State) :
    (cmdError e s).audDrops = s.audDrops := rfl
@[simp] theorem cmdError_audUnf (e : CmdErr) (s : State) :
    (cmdError e s).audUnf = s.audUnf := rfl
@[simp] theorem cmdError_snapSeq (e : CmdErr) (s : State) :
    (cmdError e s).snapSeq = s.snapSeq := rfl
@[simp] theorem cmdError_dsp (e : CmdErr) (s : State) :
    (cmdError e s).dsp = s.dsp := rfl
@[simp] theorem cmdError_mem (e : CmdErr) (s : State) :
    (cmdError e s).mem = s.mem := rfl
@[simp] theorem cmdError_env (e : CmdErr) (s : State) :
    (cmdError e s).env = s.env := rfl

/-! ### busError -/

@[simp] theorem busError_build (e : BusErr) (off : Offset) (s : State) :
    (busError e off s).build = s.build := rfl
@[simp] theorem busError_seq (e : BusErr) (off : Offset) (s : State) :
    (busError e off s).seq = s.seq := rfl
@[simp] theorem busError_flags (e : BusErr) (off : Offset) (s : State) :
    (busError e off s).flags = s.flags ||| sourceMask .busErr := rfl
@[simp] theorem busError_errCode (e : BusErr) (off : Offset) (s : State) :
    (busError e off s).errCode = busErrCode e := rfl
@[simp] theorem busError_errAddr (e : BusErr) (off : Offset) (s : State) :
    (busError e off s).errAddr = off.setWidth 64 := rfl
@[simp] theorem busError_lastCmd (e : BusErr) (off : Offset) (s : State) :
    (busError e off s).lastCmd = s.lastCmd := rfl
@[simp] theorem busError_lastN (e : BusErr) (off : Offset) (s : State) :
    (busError e off s).lastN = s.lastN := rfl
@[simp] theorem busError_lastM (e : BusErr) (off : Offset) (s : State) :
    (busError e off s).lastM = s.lastM := rfl
@[simp] theorem busError_mute (e : BusErr) (off : Offset) (s : State) :
    (busError e off s).mute = s.mute := rfl
@[simp] theorem busError_irqEn (e : BusErr) (off : Offset) (s : State) :
    (busError e off s).irqEn = s.irqEn := rfl
@[simp] theorem busError_inRate (e : BusErr) (off : Offset) (s : State) :
    (busError e off s).inRate = s.inRate := rfl
@[simp] theorem busError_outRate (e : BusErr) (off : Offset) (s : State) :
    (busError e off s).outRate = s.outRate := rfl
@[simp] theorem busError_freqOffset (e : BusErr) (off : Offset) (s : State) :
    (busError e off s).freqOffset = s.freqOffset := rfl
@[simp] theorem busError_bandwidth (e : BusErr) (off : Offset) (s : State) :
    (busError e off s).bandwidth = s.bandwidth := rfl
@[simp] theorem busError_mode (e : BusErr) (off : Offset) (s : State) :
    (busError e off s).mode = s.mode := rfl
@[simp] theorem busError_volume (e : BusErr) (off : Offset) (s : State) :
    (busError e off s).volume = s.volume := rfl
@[simp] theorem busError_deemphHz (e : BusErr) (off : Offset) (s : State) :
    (busError e off s).deemphHz = s.deemphHz := rfl
@[simp] theorem busError_audioLpfHz (e : BusErr) (off : Offset) (s : State) :
    (busError e off s).audioLpfHz = s.audioLpfHz := rfl
@[simp] theorem busError_dbMin (e : BusErr) (off : Offset) (s : State) :
    (busError e off s).dbMin = s.dbMin := rfl
@[simp] theorem busError_dbMax (e : BusErr) (off : Offset) (s : State) :
    (busError e off s).dbMax = s.dbMax := rfl
@[simp] theorem busError_pushRe (e : BusErr) (off : Offset) (s : State) :
    (busError e off s).pushRe = s.pushRe := rfl
@[simp] theorem busError_iqf (e : BusErr) (off : Offset) (s : State) :
    (busError e off s).iqf = s.iqf := rfl
@[simp] theorem busError_audf (e : BusErr) (off : Offset) (s : State) :
    (busError e off s).audf = s.audf := rfl
@[simp] theorem busError_iqDrops (e : BusErr) (off : Offset) (s : State) :
    (busError e off s).iqDrops = s.iqDrops := rfl
@[simp] theorem busError_audDrops (e : BusErr) (off : Offset) (s : State) :
    (busError e off s).audDrops = s.audDrops := rfl
@[simp] theorem busError_audUnf (e : BusErr) (off : Offset) (s : State) :
    (busError e off s).audUnf = s.audUnf := rfl
@[simp] theorem busError_snapSeq (e : BusErr) (off : Offset) (s : State) :
    (busError e off s).snapSeq = s.snapSeq := rfl
@[simp] theorem busError_dsp (e : BusErr) (off : Offset) (s : State) :
    (busError e off s).dsp = s.dsp := rfl
@[simp] theorem busError_mem (e : BusErr) (off : Offset) (s : State) :
    (busError e off s).mem = s.mem := rfl
@[simp] theorem busError_env (e : BusErr) (off : Offset) (s : State) :
    (busError e off s).env = s.env := rfl

/-! ### complete -/

@[simp] theorem complete_build (s : State) :
    (complete s).build = s.build := rfl
@[simp] theorem complete_seq (s : State) :
    (complete s).seq = Seq.idle := rfl
@[simp] theorem complete_flags (s : State) :
    (complete s).flags = s.flags ||| sourceMask .done := rfl
@[simp] theorem complete_errCode (s : State) :
    (complete s).errCode = s.errCode := rfl
@[simp] theorem complete_errAddr (s : State) :
    (complete s).errAddr = s.errAddr := rfl
@[simp] theorem complete_lastCmd (s : State) :
    (complete s).lastCmd = s.lastCmd := rfl
@[simp] theorem complete_lastN (s : State) :
    (complete s).lastN = s.lastN := rfl
@[simp] theorem complete_lastM (s : State) :
    (complete s).lastM = s.lastM := rfl
@[simp] theorem complete_mute (s : State) :
    (complete s).mute = s.mute := rfl
@[simp] theorem complete_irqEn (s : State) :
    (complete s).irqEn = s.irqEn := rfl
@[simp] theorem complete_inRate (s : State) :
    (complete s).inRate = s.inRate := rfl
@[simp] theorem complete_outRate (s : State) :
    (complete s).outRate = s.outRate := rfl
@[simp] theorem complete_freqOffset (s : State) :
    (complete s).freqOffset = s.freqOffset := rfl
@[simp] theorem complete_bandwidth (s : State) :
    (complete s).bandwidth = s.bandwidth := rfl
@[simp] theorem complete_mode (s : State) :
    (complete s).mode = s.mode := rfl
@[simp] theorem complete_volume (s : State) :
    (complete s).volume = s.volume := rfl
@[simp] theorem complete_deemphHz (s : State) :
    (complete s).deemphHz = s.deemphHz := rfl
@[simp] theorem complete_audioLpfHz (s : State) :
    (complete s).audioLpfHz = s.audioLpfHz := rfl
@[simp] theorem complete_dbMin (s : State) :
    (complete s).dbMin = s.dbMin := rfl
@[simp] theorem complete_dbMax (s : State) :
    (complete s).dbMax = s.dbMax := rfl
@[simp] theorem complete_pushRe (s : State) :
    (complete s).pushRe = s.pushRe := rfl
@[simp] theorem complete_iqf (s : State) :
    (complete s).iqf = s.iqf := rfl
@[simp] theorem complete_audf (s : State) :
    (complete s).audf = s.audf := rfl
@[simp] theorem complete_iqDrops (s : State) :
    (complete s).iqDrops = s.iqDrops := rfl
@[simp] theorem complete_audDrops (s : State) :
    (complete s).audDrops = s.audDrops := rfl
@[simp] theorem complete_audUnf (s : State) :
    (complete s).audUnf = s.audUnf := rfl
@[simp] theorem complete_snapSeq (s : State) :
    (complete s).snapSeq = s.snapSeq := rfl
@[simp] theorem complete_dsp (s : State) :
    (complete s).dsp = s.dsp := rfl
@[simp] theorem complete_mem (s : State) :
    (complete s).mem = s.mem := rfl
@[simp] theorem complete_env (s : State) :
    (complete s).env = s.env := rfl

/-! ### loadWindow -/

@[simp] theorem loadWindow_build (w : Build → Nat → F64) (s : State) :
    (loadWindow w s).build = s.build := rfl
@[simp] theorem loadWindow_seq (w : Build → Nat → F64) (s : State) :
    (loadWindow w s).seq = s.seq := rfl
@[simp] theorem loadWindow_flags (w : Build → Nat → F64) (s : State) :
    (loadWindow w s).flags = s.flags := rfl
@[simp] theorem loadWindow_errCode (w : Build → Nat → F64) (s : State) :
    (loadWindow w s).errCode = s.errCode := rfl
@[simp] theorem loadWindow_errAddr (w : Build → Nat → F64) (s : State) :
    (loadWindow w s).errAddr = s.errAddr := rfl
@[simp] theorem loadWindow_lastCmd (w : Build → Nat → F64) (s : State) :
    (loadWindow w s).lastCmd = s.lastCmd := rfl
@[simp] theorem loadWindow_lastN (w : Build → Nat → F64) (s : State) :
    (loadWindow w s).lastN = s.lastN := rfl
@[simp] theorem loadWindow_lastM (w : Build → Nat → F64) (s : State) :
    (loadWindow w s).lastM = s.lastM := rfl
@[simp] theorem loadWindow_mute (w : Build → Nat → F64) (s : State) :
    (loadWindow w s).mute = s.mute := rfl
@[simp] theorem loadWindow_irqEn (w : Build → Nat → F64) (s : State) :
    (loadWindow w s).irqEn = s.irqEn := rfl
@[simp] theorem loadWindow_inRate (w : Build → Nat → F64) (s : State) :
    (loadWindow w s).inRate = s.inRate := rfl
@[simp] theorem loadWindow_outRate (w : Build → Nat → F64) (s : State) :
    (loadWindow w s).outRate = s.outRate := rfl
@[simp] theorem loadWindow_freqOffset (w : Build → Nat → F64) (s : State) :
    (loadWindow w s).freqOffset = s.freqOffset := rfl
@[simp] theorem loadWindow_bandwidth (w : Build → Nat → F64) (s : State) :
    (loadWindow w s).bandwidth = s.bandwidth := rfl
@[simp] theorem loadWindow_mode (w : Build → Nat → F64) (s : State) :
    (loadWindow w s).mode = s.mode := rfl
@[simp] theorem loadWindow_volume (w : Build → Nat → F64) (s : State) :
    (loadWindow w s).volume = s.volume := rfl
@[simp] theorem loadWindow_deemphHz (w : Build → Nat → F64) (s : State) :
    (loadWindow w s).deemphHz = s.deemphHz := rfl
@[simp] theorem loadWindow_audioLpfHz (w : Build → Nat → F64) (s : State) :
    (loadWindow w s).audioLpfHz = s.audioLpfHz := rfl
@[simp] theorem loadWindow_dbMin (w : Build → Nat → F64) (s : State) :
    (loadWindow w s).dbMin = s.dbMin := rfl
@[simp] theorem loadWindow_dbMax (w : Build → Nat → F64) (s : State) :
    (loadWindow w s).dbMax = s.dbMax := rfl
@[simp] theorem loadWindow_pushRe (w : Build → Nat → F64) (s : State) :
    (loadWindow w s).pushRe = s.pushRe := rfl
@[simp] theorem loadWindow_iqf (w : Build → Nat → F64) (s : State) :
    (loadWindow w s).iqf = s.iqf := rfl
@[simp] theorem loadWindow_audf (w : Build → Nat → F64) (s : State) :
    (loadWindow w s).audf = s.audf := rfl
@[simp] theorem loadWindow_iqDrops (w : Build → Nat → F64) (s : State) :
    (loadWindow w s).iqDrops = s.iqDrops := rfl
@[simp] theorem loadWindow_audDrops (w : Build → Nat → F64) (s : State) :
    (loadWindow w s).audDrops = s.audDrops := rfl
@[simp] theorem loadWindow_audUnf (w : Build → Nat → F64) (s : State) :
    (loadWindow w s).audUnf = s.audUnf := rfl
@[simp] theorem loadWindow_snapSeq (w : Build → Nat → F64) (s : State) :
    (loadWindow w s).snapSeq = s.snapSeq := rfl
@[simp] theorem loadWindow_dsp (w : Build → Nat → F64) (s : State) :
    (loadWindow w s).dsp = s.dsp := rfl
@[simp] theorem loadWindow_mem (w : Build → Nat → F64) (s : State) :
    (loadWindow w s).mem = writeWords s.build s.mem winLutBase ((List.range s.build.fftN).map fun k => (w s.build k).bits) := rfl
@[simp] theorem loadWindow_env (w : Build → Nat → F64) (s : State) :
    (loadWindow w s).env = s.env := rfl

/-! ### publish -/

@[simp] theorem publish_build (line : List F64) (row : List Word) (s : State) :
    (publish line row s).build = s.build := rfl
@[simp] theorem publish_seq (line : List F64) (row : List Word) (s : State) :
    (publish line row s).seq = s.seq := rfl
@[simp] theorem publish_flags (line : List F64) (row : List Word) (s : State) :
    (publish line row s).flags = s.flags ||| sourceMask .wfDirty := rfl
@[simp] theorem publish_errCode (line : List F64) (row : List Word) (s : State) :
    (publish line row s).errCode = s.errCode := rfl
@[simp] theorem publish_errAddr (line : List F64) (row : List Word) (s : State) :
    (publish line row s).errAddr = s.errAddr := rfl
@[simp] theorem publish_lastCmd (line : List F64) (row : List Word) (s : State) :
    (publish line row s).lastCmd = s.lastCmd := rfl
@[simp] theorem publish_lastN (line : List F64) (row : List Word) (s : State) :
    (publish line row s).lastN = s.lastN := rfl
@[simp] theorem publish_lastM (line : List F64) (row : List Word) (s : State) :
    (publish line row s).lastM = s.lastM := rfl
@[simp] theorem publish_mute (line : List F64) (row : List Word) (s : State) :
    (publish line row s).mute = s.mute := rfl
@[simp] theorem publish_irqEn (line : List F64) (row : List Word) (s : State) :
    (publish line row s).irqEn = s.irqEn := rfl
@[simp] theorem publish_inRate (line : List F64) (row : List Word) (s : State) :
    (publish line row s).inRate = s.inRate := rfl
@[simp] theorem publish_outRate (line : List F64) (row : List Word) (s : State) :
    (publish line row s).outRate = s.outRate := rfl
@[simp] theorem publish_freqOffset (line : List F64) (row : List Word) (s : State) :
    (publish line row s).freqOffset = s.freqOffset := rfl
@[simp] theorem publish_bandwidth (line : List F64) (row : List Word) (s : State) :
    (publish line row s).bandwidth = s.bandwidth := rfl
@[simp] theorem publish_mode (line : List F64) (row : List Word) (s : State) :
    (publish line row s).mode = s.mode := rfl
@[simp] theorem publish_volume (line : List F64) (row : List Word) (s : State) :
    (publish line row s).volume = s.volume := rfl
@[simp] theorem publish_deemphHz (line : List F64) (row : List Word) (s : State) :
    (publish line row s).deemphHz = s.deemphHz := rfl
@[simp] theorem publish_audioLpfHz (line : List F64) (row : List Word) (s : State) :
    (publish line row s).audioLpfHz = s.audioLpfHz := rfl
@[simp] theorem publish_dbMin (line : List F64) (row : List Word) (s : State) :
    (publish line row s).dbMin = s.dbMin := rfl
@[simp] theorem publish_dbMax (line : List F64) (row : List Word) (s : State) :
    (publish line row s).dbMax = s.dbMax := rfl
@[simp] theorem publish_pushRe (line : List F64) (row : List Word) (s : State) :
    (publish line row s).pushRe = s.pushRe := rfl
@[simp] theorem publish_iqf (line : List F64) (row : List Word) (s : State) :
    (publish line row s).iqf = s.iqf := rfl
@[simp] theorem publish_audf (line : List F64) (row : List Word) (s : State) :
    (publish line row s).audf = s.audf := rfl
@[simp] theorem publish_iqDrops (line : List F64) (row : List Word) (s : State) :
    (publish line row s).iqDrops = s.iqDrops := rfl
@[simp] theorem publish_audDrops (line : List F64) (row : List Word) (s : State) :
    (publish line row s).audDrops = s.audDrops := rfl
@[simp] theorem publish_audUnf (line : List F64) (row : List Word) (s : State) :
    (publish line row s).audUnf = s.audUnf := rfl
@[simp] theorem publish_snapSeq (line : List F64) (row : List Word) (s : State) :
    (publish line row s).snapSeq = s.snapSeq + 1#64 := rfl
@[simp] theorem publish_dsp (line : List F64) (row : List Word) (s : State) :
    (publish line row s).dsp = s.dsp := rfl
@[simp] theorem publish_mem (line : List F64) (row : List Word) (s : State) :
    (publish line row s).mem = writeWords s.build (writeWords s.build s.mem spectrumBase (line.map F64.bits)) wfRowBase row := rfl
@[simp] theorem publish_env (line : List F64) (row : List Word) (s : State) :
    (publish line row s).env = s.env := rfl

/-! ### finishProcess -/

@[simp] theorem finishProcess_build (n m : Nat) (s : State) :
    (finishProcess n m s).build = s.build := rfl
@[simp] theorem finishProcess_seq (n m : Nat) (s : State) :
    (finishProcess n m s).seq = Seq.idle := rfl
@[simp] theorem finishProcess_flags (n m : Nat) (s : State) :
    (finishProcess n m s).flags = s.flags ||| sourceMask .done := rfl
@[simp] theorem finishProcess_errCode (n m : Nat) (s : State) :
    (finishProcess n m s).errCode = s.errCode := rfl
@[simp] theorem finishProcess_errAddr (n m : Nat) (s : State) :
    (finishProcess n m s).errAddr = s.errAddr := rfl
@[simp] theorem finishProcess_lastCmd (n m : Nat) (s : State) :
    (finishProcess n m s).lastCmd = s.lastCmd := rfl
@[simp] theorem finishProcess_lastN (n m : Nat) (s : State) :
    (finishProcess n m s).lastN = n := rfl
@[simp] theorem finishProcess_lastM (n m : Nat) (s : State) :
    (finishProcess n m s).lastM = m := rfl
@[simp] theorem finishProcess_mute (n m : Nat) (s : State) :
    (finishProcess n m s).mute = s.mute := rfl
@[simp] theorem finishProcess_irqEn (n m : Nat) (s : State) :
    (finishProcess n m s).irqEn = s.irqEn := rfl
@[simp] theorem finishProcess_inRate (n m : Nat) (s : State) :
    (finishProcess n m s).inRate = s.inRate := rfl
@[simp] theorem finishProcess_outRate (n m : Nat) (s : State) :
    (finishProcess n m s).outRate = s.outRate := rfl
@[simp] theorem finishProcess_freqOffset (n m : Nat) (s : State) :
    (finishProcess n m s).freqOffset = s.freqOffset := rfl
@[simp] theorem finishProcess_bandwidth (n m : Nat) (s : State) :
    (finishProcess n m s).bandwidth = s.bandwidth := rfl
@[simp] theorem finishProcess_mode (n m : Nat) (s : State) :
    (finishProcess n m s).mode = s.mode := rfl
@[simp] theorem finishProcess_volume (n m : Nat) (s : State) :
    (finishProcess n m s).volume = s.volume := rfl
@[simp] theorem finishProcess_deemphHz (n m : Nat) (s : State) :
    (finishProcess n m s).deemphHz = s.deemphHz := rfl
@[simp] theorem finishProcess_audioLpfHz (n m : Nat) (s : State) :
    (finishProcess n m s).audioLpfHz = s.audioLpfHz := rfl
@[simp] theorem finishProcess_dbMin (n m : Nat) (s : State) :
    (finishProcess n m s).dbMin = s.dbMin := rfl
@[simp] theorem finishProcess_dbMax (n m : Nat) (s : State) :
    (finishProcess n m s).dbMax = s.dbMax := rfl
@[simp] theorem finishProcess_pushRe (n m : Nat) (s : State) :
    (finishProcess n m s).pushRe = s.pushRe := rfl
@[simp] theorem finishProcess_iqf (n m : Nat) (s : State) :
    (finishProcess n m s).iqf = s.iqf := rfl
@[simp] theorem finishProcess_audf (n m : Nat) (s : State) :
    (finishProcess n m s).audf = s.audf := rfl
@[simp] theorem finishProcess_iqDrops (n m : Nat) (s : State) :
    (finishProcess n m s).iqDrops = s.iqDrops := rfl
@[simp] theorem finishProcess_audDrops (n m : Nat) (s : State) :
    (finishProcess n m s).audDrops = s.audDrops := rfl
@[simp] theorem finishProcess_audUnf (n m : Nat) (s : State) :
    (finishProcess n m s).audUnf = s.audUnf := rfl
@[simp] theorem finishProcess_snapSeq (n m : Nat) (s : State) :
    (finishProcess n m s).snapSeq = s.snapSeq := rfl
@[simp] theorem finishProcess_dsp (n m : Nat) (s : State) :
    (finishProcess n m s).dsp = s.dsp := rfl
@[simp] theorem finishProcess_mem (n m : Nat) (s : State) :
    (finishProcess n m s).mem = s.mem := rfl
@[simp] theorem finishProcess_env (n m : Nat) (s : State) :
    (finishProcess n m s).env = s.env := rfl

/-! ### withTurns -/

@[simp] theorem withTurns_build (ts : List Turn) (s : State) :
    (State.withTurns s ts).build = s.build := rfl
@[simp] theorem withTurns_seq (ts : List Turn) (s : State) :
    (State.withTurns s ts).seq = s.seq := rfl
@[simp] theorem withTurns_flags (ts : List Turn) (s : State) :
    (State.withTurns s ts).flags = s.flags := rfl
@[simp] theorem withTurns_errCode (ts : List Turn) (s : State) :
    (State.withTurns s ts).errCode = s.errCode := rfl
@[simp] theorem withTurns_errAddr (ts : List Turn) (s : State) :
    (State.withTurns s ts).errAddr = s.errAddr := rfl
@[simp] theorem withTurns_lastCmd (ts : List Turn) (s : State) :
    (State.withTurns s ts).lastCmd = s.lastCmd := rfl
@[simp] theorem withTurns_lastN (ts : List Turn) (s : State) :
    (State.withTurns s ts).lastN = s.lastN := rfl
@[simp] theorem withTurns_lastM (ts : List Turn) (s : State) :
    (State.withTurns s ts).lastM = s.lastM := rfl
@[simp] theorem withTurns_mute (ts : List Turn) (s : State) :
    (State.withTurns s ts).mute = s.mute := rfl
@[simp] theorem withTurns_irqEn (ts : List Turn) (s : State) :
    (State.withTurns s ts).irqEn = s.irqEn := rfl
@[simp] theorem withTurns_inRate (ts : List Turn) (s : State) :
    (State.withTurns s ts).inRate = s.inRate := rfl
@[simp] theorem withTurns_outRate (ts : List Turn) (s : State) :
    (State.withTurns s ts).outRate = s.outRate := rfl
@[simp] theorem withTurns_freqOffset (ts : List Turn) (s : State) :
    (State.withTurns s ts).freqOffset = s.freqOffset := rfl
@[simp] theorem withTurns_bandwidth (ts : List Turn) (s : State) :
    (State.withTurns s ts).bandwidth = s.bandwidth := rfl
@[simp] theorem withTurns_mode (ts : List Turn) (s : State) :
    (State.withTurns s ts).mode = s.mode := rfl
@[simp] theorem withTurns_volume (ts : List Turn) (s : State) :
    (State.withTurns s ts).volume = s.volume := rfl
@[simp] theorem withTurns_deemphHz (ts : List Turn) (s : State) :
    (State.withTurns s ts).deemphHz = s.deemphHz := rfl
@[simp] theorem withTurns_audioLpfHz (ts : List Turn) (s : State) :
    (State.withTurns s ts).audioLpfHz = s.audioLpfHz := rfl
@[simp] theorem withTurns_dbMin (ts : List Turn) (s : State) :
    (State.withTurns s ts).dbMin = s.dbMin := rfl
@[simp] theorem withTurns_dbMax (ts : List Turn) (s : State) :
    (State.withTurns s ts).dbMax = s.dbMax := rfl
@[simp] theorem withTurns_pushRe (ts : List Turn) (s : State) :
    (State.withTurns s ts).pushRe = s.pushRe := rfl
@[simp] theorem withTurns_iqf (ts : List Turn) (s : State) :
    (State.withTurns s ts).iqf = s.iqf := rfl
@[simp] theorem withTurns_audf (ts : List Turn) (s : State) :
    (State.withTurns s ts).audf = s.audf := rfl
@[simp] theorem withTurns_iqDrops (ts : List Turn) (s : State) :
    (State.withTurns s ts).iqDrops = s.iqDrops := rfl
@[simp] theorem withTurns_audDrops (ts : List Turn) (s : State) :
    (State.withTurns s ts).audDrops = s.audDrops := rfl
@[simp] theorem withTurns_audUnf (ts : List Turn) (s : State) :
    (State.withTurns s ts).audUnf = s.audUnf := rfl
@[simp] theorem withTurns_snapSeq (ts : List Turn) (s : State) :
    (State.withTurns s ts).snapSeq = s.snapSeq := rfl
@[simp] theorem withTurns_dsp (ts : List Turn) (s : State) :
    (State.withTurns s ts).dsp = s.dsp := rfl
@[simp] theorem withTurns_mem (ts : List Turn) (s : State) :
    (State.withTurns s ts).mem = s.mem := rfl
@[simp] theorem withTurns_env (ts : List Turn) (s : State) :
    (State.withTurns s ts).env = { s.env with turns := ts } := rfl

/-! ### State.draw -/

@[simp] theorem draw_value (s : State) : s.draw.1 = Config.draw s.env.draws := rfl
@[simp] theorem draw_build (s : State) : s.draw.2.build = s.build := rfl
@[simp] theorem draw_seq (s : State) : s.draw.2.seq = s.seq := rfl
@[simp] theorem draw_flags (s : State) : s.draw.2.flags = s.flags := rfl
@[simp] theorem draw_errCode (s : State) : s.draw.2.errCode = s.errCode := rfl
@[simp] theorem draw_errAddr (s : State) : s.draw.2.errAddr = s.errAddr := rfl
@[simp] theorem draw_lastCmd (s : State) : s.draw.2.lastCmd = s.lastCmd := rfl
@[simp] theorem draw_lastN (s : State) : s.draw.2.lastN = s.lastN := rfl
@[simp] theorem draw_lastM (s : State) : s.draw.2.lastM = s.lastM := rfl
@[simp] theorem draw_mute (s : State) : s.draw.2.mute = s.mute := rfl
@[simp] theorem draw_irqEn (s : State) : s.draw.2.irqEn = s.irqEn := rfl
@[simp] theorem draw_inRate (s : State) : s.draw.2.inRate = s.inRate := rfl
@[simp] theorem draw_outRate (s : State) : s.draw.2.outRate = s.outRate := rfl
@[simp] theorem draw_freqOffset (s : State) : s.draw.2.freqOffset = s.freqOffset := rfl
@[simp] theorem draw_bandwidth (s : State) : s.draw.2.bandwidth = s.bandwidth := rfl
@[simp] theorem draw_mode (s : State) : s.draw.2.mode = s.mode := rfl
@[simp] theorem draw_volume (s : State) : s.draw.2.volume = s.volume := rfl
@[simp] theorem draw_deemphHz (s : State) : s.draw.2.deemphHz = s.deemphHz := rfl
@[simp] theorem draw_audioLpfHz (s : State) : s.draw.2.audioLpfHz = s.audioLpfHz := rfl
@[simp] theorem draw_dbMin (s : State) : s.draw.2.dbMin = s.dbMin := rfl
@[simp] theorem draw_dbMax (s : State) : s.draw.2.dbMax = s.dbMax := rfl
@[simp] theorem draw_pushRe (s : State) : s.draw.2.pushRe = s.pushRe := rfl
@[simp] theorem draw_iqf (s : State) : s.draw.2.iqf = s.iqf := rfl
@[simp] theorem draw_audf (s : State) : s.draw.2.audf = s.audf := rfl
@[simp] theorem draw_iqDrops (s : State) : s.draw.2.iqDrops = s.iqDrops := rfl
@[simp] theorem draw_audDrops (s : State) : s.draw.2.audDrops = s.audDrops := rfl
@[simp] theorem draw_audUnf (s : State) : s.draw.2.audUnf = s.audUnf := rfl
@[simp] theorem draw_snapSeq (s : State) : s.draw.2.snapSeq = s.snapSeq := rfl
@[simp] theorem draw_dsp (s : State) : s.draw.2.dsp = s.dsp := rfl
@[simp] theorem draw_mem (s : State) : s.draw.2.mem = s.mem := rfl
@[simp] theorem draw_env (s : State) : s.draw.2.env = { s.env with draws := s.env.draws + 1 } := rfl

end Sys2Proof.Machine
end

