-- ==== Sys2Proof/Laws/Ops.lean ====
section
/-! SUPPORT. What the shared operations can do: one lemma each over the FIFOs, the address map, the issue
check and the sequencer. -/

namespace Sys2Proof.Machine

/-! ### Building the block -/

/-- The ranges of a build's parameters (R10 to R12). -/
theorem build_range (b : Build) :
    2 ≤ b.fftLog2N ∧ b.fftLog2N ≤ 16 ∧ 2 ≤ b.cIq ∧ b.cIq ≤ 2 ^ 24 ∧ 2 ≤ b.cAud ∧ b.cAud ≤ 2 ^ 24 ∧
      1 ≤ b.maxBlock ∧ b.maxBlock ≤ 1048575 := by
  simpa only [Params.legal, decide_eq_true_eq] using b.legal

/-- Building from parameters: they are legal and become the build's, or the block is refused (R314). -/
theorem ofParams_cases (p : Params) :
    (p.legal = true ∧ ∃ b, Build.ofParams p = some b ∧ b.toParams = p) ∨
    (p.legal = false ∧ Build.ofParams p = none) := by
  unfold Build.ofParams
  split
  · rename_i h
    exact .inl ⟨h, _, rfl, rfl⟩
  · rename_i h
    exact .inr ⟨by simpa using h, rfl⟩

/-- The block after reset exists exactly for legal parameters (R314, R701). -/
theorem resetOf_cases (p : Params) :
    (p.legal = true ∧ ∃ b, b.toParams = p ∧ State.resetOf p = some (State.resetFor b)) ∨
    (p.legal = false ∧ State.resetOf p = none) := by
  obtain ⟨h, b, e, hb⟩ | ⟨h, e⟩ := ofParams_cases p
  · exact .inl ⟨h, b, hb, by simp [State.resetOf, e]⟩
  · exact .inr ⟨h, by simp [State.resetOf, e]⟩

/-- An `FFT_LOG2N` outside 2 to 16 builds no block (R314). -/
theorem resetOf_refuses_fftLog2N (p : Params) (h : p.fftLog2N < 2 ∨ 16 < p.fftLog2N) : State.resetOf p = none := by
  obtain ⟨hl, _⟩ | ⟨_, e⟩ := resetOf_cases p
  · simp only [Params.legal, decide_eq_true_eq] at hl
    omega
  · exact e

/-! ### FIFOs -/

/-- A push below capacity appends; a push at capacity loses the oldest sample (R251, R261). -/
theorem fifoPush_cases {α : Type} (slots : Nat) (q : List α) (x : α) :
    (q.length = slots - 1 ∧ fifoPush slots q x = (q.drop 1 ++ [x], true)) ∨
    (q.length ≠ slots - 1 ∧ fifoPush slots q x = (q ++ [x], false)) := by
  unfold fifoPush
  split
  · exact .inl ⟨‹_›, rfl⟩
  · exact .inr ⟨‹_›, rfl⟩

/-- A push never leaves more than the usable capacity (R258, R267). -/
theorem fifoPush_length {α : Type} {slots : Nat} (hs : 2 ≤ slots) {q : List α} (hq : q.length ≤ slots - 1) (x : α) :
    (fifoPush slots q x).1.length ≤ slots - 1 := by
  obtain ⟨h, e⟩ | ⟨h, e⟩ := fifoPush_cases slots q x <;> rw [e] <;> simp <;> omega

/-- What a pop of the audio FIFO can do (R265). -/
theorem audPop_cases (s : State) :
    (s.audf = [] ∧ audPop s = (fZero, setFlag .audUnf { s with audUnf := s.audUnf + 1#64 })) ∨
    ∃ v q, s.audf = v :: q ∧ audPop s = (v, { s with audf := q }) := by
  unfold audPop
  cases h : s.audf with
  | nil => exact .inl ⟨rfl, rfl⟩
  | cons v q => exact .inr ⟨v, q, rfl, rfl⟩

/-- What a push into the I/Q FIFO can do (R251). -/
theorem iqPush_cases (x : Cplx) (s : State) :
    (s.iqf.length = s.build.cIq - 1 ∧
      iqPush x s = setFlag .iqOvf { s with iqf := s.iqf.drop 1 ++ [x], iqDrops := s.iqDrops + 1#64 }) ∨
    (s.iqf.length ≠ s.build.cIq - 1 ∧ iqPush x s = { s with iqf := s.iqf ++ [x] }) := by
  unfold iqPush
  obtain ⟨h, e⟩ | ⟨h, e⟩ := fifoPush_cases s.build.cIq s.iqf x
  · exact .inl ⟨h, by simp [e]⟩
  · exact .inr ⟨h, by simp [e]⟩

/-- What a push into the audio FIFO can do (R261). -/
theorem audPush_cases (v : F64) (s : State) :
    (s.audf.length = s.build.cAud - 1 ∧
      audPush v s = setFlag .audOvf { s with audf := s.audf.drop 1 ++ [v], audDrops := s.audDrops + 1#64 }) ∨
    (s.audf.length ≠ s.build.cAud - 1 ∧ audPush v s = { s with audf := s.audf ++ [v] }) := by
  unfold audPush
  obtain ⟨h, e⟩ | ⟨h, e⟩ := fifoPush_cases s.build.cAud s.audf v
  · exact .inl ⟨h, by simp [e]⟩
  · exact .inr ⟨h, by simp [e]⟩

/-! ### Sequencer and errors -/

theorem busy_idle {s : State} (h : s.seq = .idle) : s.busy = false := by simp [State.busy, h]

theorem busy_iff (s : State) : s.busy = true ↔ s.seq ≠ .idle := by
  unfold State.busy
  cases h : s.seq <;> simp

/-- What the issue check can answer (R451): busy; or the decoder's error; or the range of `N`; or nothing. -/
theorem issueCheck_cases (v : Word) (s : State) :
    (s.busy = true ∧ issueCheck v s = some .busy) ∨
    (s.busy = false ∧ ∃ e, decode v = .error e ∧ issueCheck v s = some e) ∨
    (s.busy = false ∧ ∃ i, decode v = .ok i ∧ i.wellFormed s.build = false ∧ issueCheck v s = some .nRange) ∨
    (s.busy = false ∧ ∃ i, decode v = .ok i ∧ i.wellFormed s.build = true ∧ issueCheck v s = none) := by
  unfold issueCheck
  cases hb : s.busy with
  | true => exact .inl ⟨rfl, rfl⟩
  | false =>
    cases hd : decode v with
    | error e => exact .inr (.inl ⟨rfl, e, rfl, rfl⟩)
    | ok i =>
      cases hw : i.wellFormed s.build with
      | false => exact .inr (.inr (.inl ⟨rfl, i, rfl, hw, by simp [hw]⟩))
      | true => exact .inr (.inr (.inr ⟨rfl, i, rfl, hw, by simp [hw]⟩))

/-! ### Reads -/

/-- A view register is exact while idle and a draw while busy (R59). -/
theorem readView_cases (w : Word) (s : State) :
    (s.busy = true ∧ readView w s = (Config.draw s.env.draws, s.draw.2)) ∨
    (s.busy = false ∧ readView w s = (w, s)) := by
  unfold readView
  cases s.busy with
  | true => exact .inl ⟨rfl, rfl⟩
  | false => exact .inr ⟨rfl, rfl⟩

/-- What a host read can do (R201): report one of two errors, or read a mapped region. -/
theorem hostRead_cases (off : Offset) (s : State) :
    (off.toNat % 8 ≠ 0 ∧ hostRead off s = (0#64, busError .align off s)) ∨
    (off.toNat % 8 = 0 ∧ region s.build off = none ∧ hostRead off s = (0#64, busError .unmapped off s)) ∨
    (off.toNat % 8 = 0 ∧ ∃ g, region s.build off = some g ∧ hostRead off s = readRegion g s) := by
  unfold hostRead
  by_cases h : off.toNat % 8 = 0
  · simp only [h, ne_eq, not_true_eq_false, if_false, false_and, true_and, false_or]
    cases hr : region s.build off with
    | none => exact .inl ⟨rfl, rfl⟩
    | some g => exact .inr ⟨g, rfl, rfl⟩
  · exact .inl ⟨h, by simp [h]⟩

/-- What a host write can do (R202): report one of four errors, or write a mapped, writable region. -/
theorem hostWrite_cases (off : Offset) (v : Word) (s : State) :
    (∃ e, hostWrite off v s = busError e off s) ∨
    ∃ g, region s.build off = some g ∧ readOnly g = false ∧ (hostLut g && s.busy) = false ∧
      hostWrite off v s = writeRegion g v s := by
  unfold hostWrite
  by_cases h : off.toNat % 8 = 0
  · simp only [h, ne_eq, not_true_eq_false, if_false]
    cases hr : region s.build off with
    | none => exact .inl ⟨_, rfl⟩
    | some g =>
      cases hro : readOnly g with
      | true => exact .inl ⟨.readOnly, by simp [hro]⟩
      | false =>
        cases hb : (hostLut g && s.busy) with
        | true => exact .inl ⟨.lutBusy, by simp [hro, hb]⟩
        | false => exact .inr ⟨g, rfl, hro, hb, by simp [hro, hb]⟩
  · exact .inl ⟨.align, by simp [h]⟩

end Sys2Proof.Machine
end

