-- ==== Sys2Proof/Laws/PerInstr.lean ====
section
/-! SUPPORT. Facts about every command, made per constructor: the reserved bits of its encoding are 0 and
its `OP` field is its opcode (R150, R151, R156). -/

namespace Sys2Proof.Laws

/-- The opcode of a command (R156). -/
def opcode : Instr → BitVec 4
  | .nop => 0x0#4
  | .process _ _ => 0x1#4
  | .reinit => 0x2#4
  | .iqClear => 0x3#4
  | .audClear => 0x4#4
  | .wingenHann => 0x5#4
  | .wingenHamming => 0x5#4

/-- `OP` of the encoding is the opcode, and bits [63:32] are 0. -/
def EncodedFields.Statement (i : Instr) : Prop :=
  (encode i).extractLsb' 0 4 = opcode i ∧ (encode i).extractLsb' 32 32 = 0#32

theorem EncodedFields.nop : EncodedFields.Statement .nop := by unfold EncodedFields.Statement; decide

theorem EncodedFields.process (n : BitVec 20) (snap : Bool) : EncodedFields.Statement (.process n snap) := by
  refine ⟨?_, ?_⟩
  · apply BitVec.eq_of_getLsbD_eq
    intro i hi
    cases snap <;> interval_cases i <;> simp [encode, opcode]
  · apply BitVec.eq_of_getLsbD_eq
    intro i hi
    cases snap <;> simp [encode, hi, BitVec.getLsbD_shiftLeft] <;>
      interval_cases i <;> simp

theorem EncodedFields.reinit : EncodedFields.Statement .reinit := by unfold EncodedFields.Statement; decide
theorem EncodedFields.iqClear : EncodedFields.Statement .iqClear := by unfold EncodedFields.Statement; decide
theorem EncodedFields.audClear : EncodedFields.Statement .audClear := by unfold EncodedFields.Statement; decide
theorem EncodedFields.wingenHann : EncodedFields.Statement .wingenHann := by
  unfold EncodedFields.Statement; decide
theorem EncodedFields.wingenHamming : EncodedFields.Statement .wingenHamming := by
  unfold EncodedFields.Statement; decide

end Sys2Proof.Laws
end

