-- ==== Sys2Proof/Laws/Step.lean ====
section
/-! SUPPORT. What one step can do, said once: whose turn it is, and what the engine's step is. -/

namespace Sys2Proof.Machine

/-- The engine's step (R453): nothing while idle, the decoded command while pending, a run step while
running, and a fault only on a context that no issue latches. -/
theorem engineStep_cases (s : State) :
    (s.seq = .idle ∧ engineStep s = .next s) ∨
    (∃ c i, s.seq = .pending c ∧ fetch c = .ok i ∧ engineStep s = exec i s) ∨
    (∃ c e, s.seq = .pending c ∧ fetch c = .error e ∧ engineStep s = .fault (.notACommand e)) ∨
    (∃ r, s.seq = .running r ∧ engineStep s = .next (runStep r s)) := by
  unfold engineStep
  cases hs : s.seq with
  | idle => exact .inl ⟨rfl, rfl⟩
  | pending c =>
    cases hf : fetch c with
    | ok i => exact .inr (.inl ⟨c, i, rfl, hf, by simp [hf]⟩)
    | error e => exact .inr (.inr (.inl ⟨c, e, rfl, hf, by simp [hf]⟩))
  | running r => exact .inr (.inr (.inr ⟨r, rfl, rfl⟩))

/-- A step is the engine's, with or without a turn of its own, or one of an agent outside (R20, R110). -/
theorem step_cases (s : State) :
    (s.env.turns = [] ∧ step s = engineStep s) ∨
    (∃ ts, s.env.turns = .engine :: ts ∧ step s = engineStep (s.withTurns ts)) ∨
    (∃ e ts, s.env.turns = .outside e :: ts ∧ step s = .next (outsideStep e (s.withTurns ts))) := by
  unfold step
  cases ht : s.env.turns with
  | nil => exact .inl ⟨rfl, rfl⟩
  | cons t ts =>
    cases t with
    | engine => exact .inr (.inl ⟨ts, rfl, rfl⟩)
    | outside e => exact .inr (.inr ⟨e, ts, rfl, rfl⟩)

/-- The engine's choice in a running `PROCESS` (R464): the completion, the next push or the snapshot. -/
theorem runStep_cases (r : Run) (s : State) :
    (r.outs.length ≤ r.next ∧ r.snapPending = false ∧ runStep r s = finishProcess r.blk.length r.outs.length s) ∨
    (r.next < r.outs.length ∧ ∃ s', (s' = s ∨ s' = s.draw.2) ∧ runStep r s = pushNext r s') ∨
    (r.snapPending = true ∧ ∃ s', (s' = s ∨ s' = s.draw.2) ∧ runStep r s = publishSnapshot r s') := by
  unfold runStep
  by_cases h : r.next < r.outs.length
  · simp only [h, if_true]
    cases hp : r.snapPending with
    | false => exact .inr (.inl ⟨trivial, s, .inl rfl, rfl⟩)
    | true =>
      simp only [if_true]
      split
      · exact .inr (.inr ⟨trivial, _, .inr rfl, rfl⟩)
      · exact .inr (.inl ⟨trivial, _, .inr rfl, rfl⟩)
  · simp only [h, if_false]
    cases hp : r.snapPending with
    | false => exact .inl ⟨by omega, rfl, rfl⟩
    | true => exact .inr (.inr ⟨rfl, s, .inl rfl, rfl⟩)

/-- The start step of `PROCESS` (R461): no sample, or a block of the oldest ones. -/
theorem startProcess_cases (n : BitVec 20) (snap : Bool) (s : State) :
    (min n.toNat s.iqf.length = 0 ∧
      startProcess n snap s = finishProcess 0 0 { freshOnRateChange (context s) s with iqf := s.iqf }) ∨
    (0 < min n.toNat s.iqf.length ∧
      startProcess n snap s =
        beginRun (context s) snap (s.iqf.take (min n.toNat s.iqf.length))
          { freshOnRateChange (context s) s with iqf := s.iqf.drop (min n.toNat s.iqf.length) }) := by
  have hq : (freshOnRateChange (context s) s).iqf = s.iqf := by
    unfold freshOnRateChange
    split <;> rfl
  unfold startProcess
  simp only [iqPopN, hq, List.length_take]
  by_cases h : min n.toNat s.iqf.length = 0
  · exact .inl ⟨h, by simp [h]⟩
  · refine .inr ⟨by omega, ?_⟩
    have : min (min n.toNat s.iqf.length) s.iqf.length ≠ 0 := by omega
    simp only [this, if_false]

end Sys2Proof.Machine
end

