-- ==== Sys2Proof/Tests/Slice0.lean ====
section
/-! SUPPORT. Our own tests: the smoke test of WellFormed, words written out from the encoding tables,
vectors of 95_test_vectors.md, and for every statement with hypotheses a state and operands that meet
them all. The kernel evaluates each. -/

namespace Sys2Proof.Tests

open Sys2Proof Sys2Proof.Machine

/-! ### Helpers -/

/-- The small configuration right after reset. -/
def small : State := State.resetFor Build.small

def one : Cplx := ⟨fOne, fZero⟩
def cImag : Cplx := ⟨fZero, fOne⟩

/-- A small state whose engine holds the command word `w`, latched with the mode and rates given. -/
def pend (w : Word) (m : Mode) (rin rout : BitVec 32) (xs : List Cplx) : State :=
  let s := { small with mode := m, inRate := rin, outRate := rout, bandwidth := fFour, iqf := xs }
  { s with seq := .pending (latch w s) }

def aCtx : Ctx := latch 0x4001#64 { small with inRate := 4#32, outRate := 2#32, bandwidth := fFour }

/-- A running `PROCESS` that took one sample and has `outs` to push. -/
def aRun (outs : List F64) (next : Nat) (snap : Bool) : Run :=
  { ctx := aCtx, blk := [one, one], outs := outs, next := next, snapPending := snap }

def running (r : Run) : State := { small with seq := .running r }

/-- The audio samples of a run record, and none elsewhere. -/
def outsOf (o : Host.Outcome State Fault Refusal) : List F64 :=
  match o with
  | .next t =>
    match t.seq with
    | .running r => r.outs
    | .idle => []
    | .pending _ => []
  | .fault _ => []
  | .refused _ => []

/-- The DSP state of a next state. -/
def dspOf (o : Host.Outcome State Fault Refusal) : Dsp :=
  match o with
  | .next t => t.dsp
  | .fault _ => small.dsp
  | .refused _ => small.dsp

/-! ### WellFormed: the one check, and a term it refuses -/

theorem test_wellFormed_accepts_max_block : (Instr.process 16#20 true).wellFormed Build.small = true := by decide
theorem test_wellFormed_refuses_over_max_block : (Instr.process 17#20 true).wellFormed Build.small = false := by
  decide
theorem test_build_refuses_small_fft : State.resetOf { Build.small.toParams with fftLog2N := 1 } = none := by rfl
theorem test_build_refuses_fft_size : State.resetOf { Build.small.toParams with fftLog2N := 17 } = none := by rfl
theorem test_build_refuses_one_slot : Build.ofParams { Build.small.toParams with cIq := 1 } = none := by rfl
theorem test_build_refuses_audio_slots : Build.ofParams { Build.small.toParams with cAud := 16777217 } = none := by
  rfl
theorem test_build_refuses_max_block : Build.ofParams { Build.small.toParams with maxBlock := 1048576 } = none := by
  rfl
theorem test_build_accepts : Build.ofParams Build.small.toParams = some Build.small := by rfl

/-! ### Decoding: each constructor's word from the tables of R152 to R154, and rejected words (L2-ENC-2) -/

theorem test_decode_nop : decode 0x0#64 = .ok .nop := by decide
/-- `N` = 4 at [31:12], `SNAP` = 1 at [4], OP 1: 4 * 4096 + 16 + 1. -/
theorem test_decode_process : decode 0x4011#64 = .ok (.process 4#20 true) := by decide
theorem test_decode_process_max : decode 0xFFFFF001#64 = .ok (.process 1048575#20 false) := by decide
theorem test_decode_reinit : decode 0x2#64 = .ok .reinit := by decide
theorem test_decode_iqClear : decode 0x3#64 = .ok .iqClear := by decide
theorem test_decode_audClear : decode 0x4#64 = .ok .audClear := by decide
theorem test_decode_wingenHann : decode 0x05#64 = .ok .wingenHann := by decide
theorem test_decode_wingenHamming : decode 0x15#64 = .ok .wingenHamming := by decide
theorem test_decode_opcode_before_reserved : decode 0x100000007#64 = .error .illegalOp := by decide
theorem test_decode_process_bit32 : decode 0x100000001#64 = .error .reserved := by decide
theorem test_decode_process_bit5 : decode 0x21#64 = .error .reserved := by decide
theorem test_decode_audClear_bit4 : decode 0x14#64 = .error .reserved := by decide
theorem test_decode_wingen_bit6 : decode 0x45#64 = .error .reserved := by decide
theorem test_decode_wingen_wtype2 : decode 0x25#64 = .error .wtype := by decide
theorem test_decode_wingen_wtype3 : decode 0x35#64 = .error .wtype := by decide
/-- `PROCESS 34133, snap` (R159). -/
theorem test_encode_process : encode (.process 34133#20 true) = 0x8555011#64 := by decide
theorem test_decodeTableWord : decodeTableWord 64 0x10000001 = some (.process 65536#20 false) := by decide

/-! ### Arithmetic and chain helpers (L2-CHAIN, R17, R303) -/

theorem test_hamming_end : (subResult f0p54 f0p46) = some ⟨0x3FB47AE147AE147C#64⟩ := by decide +kernel
theorem test_mul_rounds : mulResult f0p3 fDbFloor = some ⟨0xC04E000000000000#64⟩ := by decide +kernel
theorem test_sqrt_five : sqrtResult ⟨0x4039000000000000#64⟩ = some ⟨0x4014000000000000#64⟩ := by decide +kernel
theorem test_float_rate : float 2048000 = ⟨0x413F400000000000#64⟩ := by decide +kernel
theorem test_alpha_channel : (alpha ⟨0x40B7700000000000#64⟩ 2048000#32 0).1 = ⟨0x3F92D97C7F3321D2#64⟩ := by
  decide +kernel
theorem test_wrap_seven : (wrap ⟨0x401C000000000000#64⟩ 0).1 = ⟨0x3FE6F0255DDE9740#64⟩ := by decide +kernel
theorem test_wrap_minus_one : (wrap fMinusOne 0).1 = ⟨0x401521FB54442D18#64⟩ := by decide +kernel
theorem test_ncoStep : (ncoStep ⟨0x40E86A0000000000#64⟩ 2048000#32 0).1 = ⟨0x3FC3A28C59D5433B#64⟩ := by
  decide +kernel
theorem test_decimation : decimation 2048000#32 48000#32 = 42 ∧ decimation 1000#32 48000#32 = 1 := by decide
/-- L2-SNAP-5: -50 dB in [-100, 0] is index 127. -/
theorem test_pixelIndex :
    (pixelIndex { aCtx with dbMin := ⟨0xC059000000000000#64⟩, dbMax := fZero } ⟨0xC049000000000000#64⟩ 0).1 = 127 := by
  decide +kernel
/-- R313, L = 2. -/
theorem test_bitReverse : (List.range 4).map (bitReverse 2) = [0, 2, 1, 3] := by decide

/-! ### Commands, one step each -/

/-- P2: six samples (3, 4) in AM at rates (4, 2). -/
theorem test_process_am :
    let o := exec (.process 6#20 false)
      (pend 0x6001#64 .am 4#32 2#32 (List.replicate 6 ⟨⟨0x4008000000000000#64⟩, fFour⟩))
    outsOf o = [fOne, fOne, fOne] ∧ (dspOf o).dcAm = ⟨0x3FB31AAA3AD18D26#64⟩ ∧
      (dspOf o).post = ⟨0x4013B3955714B9CB#64⟩ := by decide +kernel

/-- P4: five quarter-turns in WFM at rates (4, 2), a remainder of one. -/
theorem test_process_wfm :
    let o := exec (.process 5#20 false)
      (pend 0x5001#64 .wfm 4#32 2#32 [one, cImag, ⟨fMinusOne, fZero⟩, ⟨fZero, fMinusOne⟩, one])
    outsOf o = [f0p8, f0p8] ∧ (dspOf o).dcWfm = ⟨0x3F981653FF401C7A#64⟩ ∧ (dspOf o).wcnt = 1 := by decide +kernel

theorem test_nop_completes : exec .nop small = .next { small with flags := 0b1#7 } := by rfl
theorem test_reinit_latched_rates : (dspOf (exec .reinit (pend 0x2#64 .am 4#32 2#32 []))).curIn = 4#32 := by decide
theorem test_iqClear : exec .iqClear { small with iqf := [one], iqDrops := 3#64 } =
    .next { small with iqDrops := 3#64, flags := 0b1#7 } := by rfl
theorem test_audClear : exec .audClear { small with audf := [fOne] } = .next { small with flags := 0b1#7 } := by rfl
/-- L2-WIN-1: `W_h[0]` is +0.0. -/
theorem test_hann_zero : hann Build.small 0 = fZero := by decide +kernel
/-- L2-WIN-2: `W_m[0]`. -/
theorem test_hamming_zero : hamming Build.small 0 = ⟨0x3FB47AE147AE147C#64⟩ := by decide +kernel

/-! ### Host bus (L2-BUS, L2-ENC-2, L2-FIFO) -/

theorem test_read_id : hostRead 0x000#22 small = (0x4F53445200000007#64, small) := by rfl
theorem test_misaligned_status : (hostRead 0x004#22 small).2.status = 0x880#64 := by decide
theorem test_unmapped_status : (hostRead 0x118#22 small).2.status = 0x980#64 := by decide
theorem test_readonly_status : (hostWrite 0x000#22 1#64 small).status = 0xA80#64 := by decide
theorem test_lut_busy_status :
    (hostWrite 0x100000#22 0x3FF0000000000000#64 { small with seq := .pending aCtx }).status = 0xB81#64 := by decide
theorem test_illegal_status : (hostWrite 0x030#22 0x7#64 small).status = 0x140#64 := by decide
theorem test_range_status : (hostWrite 0x030#22 0x11001#64 small).status = 0x440#64 := by decide
theorem test_palette_read : (hostRead 0x0107F8#22 small).1 = 0xFFFFFFFF#64 := by decide +kernel
theorem test_irq_on_enable : (hostWrite 0x040#22 0x42#64 (hostWrite 0x030#22 0x25#64 small)).irq = true := by decide

/-! ### Witnesses: a state and operands that meet the hypotheses of each statement -/

theorem test_witness_AcceptedWordIsTheEncoding : decode 0xFFFFF011#64 = .ok (.process 1048575#20 true) := by decide

/-- Each of the five codes, and an acceptance at the boundary `N = MAX_BLOCK`. -/
theorem test_witness_CmdWriteLatchesOrRejects :
    issueCheck 0x6#64 small = some .illegalOp ∧ issueCheck 0x10#64 small = some .reserved ∧
    issueCheck 0x0#64 { small with seq := .pending aCtx } = some .busy ∧ issueCheck 0x11001#64 small = some .nRange ∧
    issueCheck 0x25#64 small = some .wtype ∧ issueCheck 0x10011#64 small = none := by decide

theorem test_witness_EngineTurnRunsThePendingCommand :
    (pend 0x0#64 .am 4#32 2#32 []).seq = .pending (latch 0x0#64 (pend 0x0#64 .am 4#32 2#32 [])) ∧
    fetch (latch 0x0#64 (pend 0x0#64 .am 4#32 2#32 [])) = .ok .nop ∧
    (pend 0x0#64 .am 4#32 2#32 []).env.turns = [] ∧ small.seq = .idle ∧ small.env.turns = [] ∧
    (small.withTurns [.engine]).env.turns = .engine :: [] := by decide

theorem test_witness_LatchedWordRunsItsCommand : decodeTableWord 64 0xFFFFF011 = some (.process 1048575#20 true) := by
  decide

/-- The small configuration right after reset has the invariant. -/
theorem small_inv : small.Inv :=
  { mem := by decide, iqf := by decide, audf := by decide, lastN := by decide, lastM := by decide
    errCode := by decide, wcnt := by decide, seq := trivial }

theorem test_witness_EveryStepKeepsTheInvariant : small.Inv ∧ step small = .next small := ⟨small_inv, rfl⟩
theorem test_witness_InvariantStatesAlwaysStepOn : small.Inv := small_inv

theorem test_witness_ReinitMakesTheDspStateFresh :
    ({ small with seq := .pending aCtx } : State).seq = .pending aCtx := by rfl
theorem test_witness_WingenHannFillsTheWindow : Memory.wf small.build small.mem = true ∧ 3 < small.build.fftN := by
  decide
theorem test_witness_WingenHammingFillsTheWindow : Memory.wf small.build small.mem = true ∧ 0 < small.build.fftN := by
  decide
theorem test_witness_WindowEntriesDrawNothing :
    0 < Build.small.fftN ∧ 3 < Build.small.fftN ∧ 
    1023 < Build.thisHardware.fftN := by decide

/-- `n = 1`, the least block. -/
theorem test_witness_ProcessStartRunsTheChainOnTheOldestSamples :
    ({ small with seq := .pending aCtx, iqf := [one, one] } : State).seq = .pending aCtx ∧
    1 ≤ min (1#20).toNat ({ small with seq := .pending aCtx, iqf := [one, one] } : State).iqf.length := by decide
/-- `N = 0` with samples held, and no samples held. -/
theorem test_witness_ProcessWithoutSamplesCompletes :
    ({ small with seq := .pending aCtx, iqf := [one] } : State).seq = .pending aCtx ∧
    min (0#20).toNat [one].length = 0 ∧ min (4#20).toNat small.iqf.length = 0 := by decide

/-- The four clauses: a push left, the snapshot left, both, neither. -/
theorem test_witness_RunStepTakesAnEnabledAction :
    (running (aRun [fOne] 0 false)).seq = .running (aRun [fOne] 0 false) ∧ small.env.turns = [] ∧
    ((aRun [fOne] 0 false).next < (aRun [fOne] 0 false).outs.length ∧ (aRun [fOne] 0 false).snapPending = false) ∧
    ((aRun [fOne] 1 true).outs.length ≤ (aRun [fOne] 1 true).next ∧ (aRun [fOne] 1 true).snapPending = true) ∧
    ((aRun [fOne] 0 true).next < (aRun [fOne] 0 true).outs.length ∧ (aRun [fOne] 0 true).snapPending = true) ∧
    ((aRun [fOne] 1 false).outs.length ≤ (aRun [fOne] 1 false).next ∧ (aRun [fOne] 1 false).snapPending = false) := by
  decide

theorem test_witness_ProcessCompletesInBoundedSteps :
    (pend 0x4011#64 .usb 4#32 2#32 [one]).seq = .pending (latch 0x4011#64 (pend 0x4011#64 .usb 4#32 2#32 [one])) ∧
    fetch (latch 0x4011#64 (pend 0x4011#64 .usb 4#32 2#32 [one])) = .ok (.process 4#20 true) ∧
    (pend 0x4011#64 .usb 4#32 2#32 [one]).env.turns = [] := by decide

/-- A full audio FIFO, and nothing left to push. -/
theorem test_witness_AudioEntersInOutputOrder :
    let s := { running (aRun [fOne, fTwo] 0 false) with audf := List.replicate 7 fZero }
    s.seq = .running (aRun [fOne, fTwo] 0 false) ∧ s.env.turns = [] ∧
    (aRun [fOne, fTwo] 0 false).next ≤ (aRun [fOne, fTwo] 0 false).outs.length ∧
    (aRun [fOne] 1 false).next ≤ (aRun [fOne] 1 false).outs.length ∧
    2 ≤ s.build.cAud ∧ s.audf.length ≤ s.build.cAud - 1 := by decide

theorem test_witness_CommandsIgnoreLiveRegisters :
    ({ small with seq := .pending aCtx } : State).seq = .pending aCtx := by rfl
theorem test_witness_OutsideStepsKeepTheCommandAndItsLuts :
    ({ small with seq := .pending aCtx } : State).busy = true ∧ (running (aRun [] 0 false)).busy = true ∧
    Event.consPop ≠ .reset := by decide

theorem test_witness_CapturePushDropsTheOldestWhenFull :
    ({ small with iqf := List.replicate 7 one } : State).iqf.length = small.build.cIq - 1 ∧
    ({ small with iqf := List.replicate 6 one } : State).iqf.length ≠ small.build.cIq - 1 := by decide
theorem test_witness_BurstOfPushesKeepsTheNewest :
    2 ≤ small.build.cIq ∧ ({ small with iqf := List.replicate 7 one } : State).iqf.length ≤ small.build.cIq - 1 := by
  decide
theorem test_witness_AudioPushDropsTheOldestWhenFull :
    ({ small with audf := List.replicate 7 fOne } : State).audf.length = small.build.cAud - 1 ∧
    small.audf.length ≠ small.build.cAud - 1 := by decide
theorem test_witness_AudioPopDeliversTheOldestOrSilence :
    ({ small with audf := [fOne] } : State).audf = fOne :: [] ∧ small.audf = [] := by decide

theorem test_witness_MisalignedAccessIsRecordedFirst :
    (0x001#22 : Offset).toNat % 8 ≠ 0 ∧ (0x3FFFFF#22 : Offset).toNat % 8 ≠ 0 := by decide
/-- The first unmapped offset, those next to each LUT of the small configuration, and the last. -/
theorem test_witness_UnmappedAccessIsRecorded :
    [0x000118#22, 0x00FFF8#22, 0x010800#22, 0x0FFFF8#22, 0x100020#22, 0x180020#22, 0x200020#22, 0x3FFFF8#22].all
      (fun off : Offset => decide (off.toNat % 8 = 0 ∧ 0x118 ≤ off.toNat ∧
        ¬ (0x010000 ≤ off.toNat ∧ off.toNat < 0x010800) ∧
        ¬ (0x100000 ≤ off.toNat ∧ off.toNat < 0x100000 + 8 * small.build.fftN) ∧
        ¬ (0x180000 ≤ off.toNat ∧ off.toNat < 0x180000 + 8 * small.build.fftN) ∧
        ¬ (0x200000 ≤ off.toNat ∧ off.toNat < 0x200000 + 8 * small.build.fftN))) = true := by
  decide +kernel
theorem test_witness_ReadOnlyWritesAreRefused :
    (0x110#22 : Offset) ∈ [0x000#22, 0x110#22] ∧ 3 < small.build.fftN ∧
    (0x180018#22 : Offset).toNat = 0x180000 + 8 * 3 ∧ (0x200000#22 : Offset).toNat = 0x200000 + 8 * 0 := by decide
theorem test_witness_LutWritesReadBackWhileIdle :
    Memory.wf small.build small.mem = true ∧ small.busy = false ∧ 3 < small.build.fftN ∧
    (0x100018#22 : Offset).toNat = 0x100000 + 8 * 3 ∧ (0x0107F8#22 : Offset).toNat = 0x010000 + 8 * 255 ∧
    ({ small with seq := .pending aCtx } : State).busy = true := by decide
theorem test_witness_ConfigurationWritesReadBack :
    (((0x5#64 : Word).extractLsb' 0 3).toNat ≤ 5) ∧ ¬ (((0x6#64 : Word).extractLsb' 0 3).toNat ≤ 5) := by decide
theorem test_witness_ViewRegistersAreDrawnWhileBusy :
    small.seq = .idle ∧ ({ small with seq := .pending aCtx } : State).seq ≠ .idle := by decide
theorem test_witness_ReadsHaveNoSideEffect :
    (0x110#22 : Offset).toNat % 8 = 0 ∧ region small.build 0x110#22 = some (.reg .curOutRate) ∧
    (0x110#22 : Offset) ≠ 0x0E8#22 ∧ region small.build 0x200018#22 = some (.wfRow 3) := by decide
theorem test_witness_ResetSetsEveryElement :
    ({ small with seq := .pending aCtx } : State).build = small.build ∧ 3 < small.build.fftN := by decide

theorem test_witness_NonWfmBlockOutputCount : aCtx.mode ≠ .wfm := by decide
/-- `wcnt` at its largest, `D - 1`. -/
theorem test_witness_WfmBlockOutputCount :
    ({ aCtx with mode := .wfm } : Ctx).mode = .wfm ∧
    ({ fresh 4#32 2#32 with wcnt := 1 } : Dsp).wcnt < decimation aCtx.inRate aCtx.outRate := by decide
theorem test_witness_OffBlocksAreSilent : aCtx.mode = .off := by decide
theorem test_witness_MutedBlocksAreSilent : ({ aCtx with mute := true } : Ctx).mute = true := by rfl
theorem test_witness_UnityGainOutputIsLimited : aCtx.mute = false ∧ aCtx.volume = fOne := by decide
theorem test_witness_BlocksTouchOnlyTheirModesState :
    ({ aCtx with mode := .wfm } : Ctx).mode = .wfm ∧ aCtx.mode ≠ .wfm ∧ aCtx.mode ≠ .am ∧ aCtx.mode ≠ .nfm := by decide

/-- A NaN input makes the updated post-filter a NaN, whichever NaNs are drawn. -/
theorem onePole_isNaN (d : Nat) : isNaN (onePole fOne fZero ⟨0x7FF8000000000000#64⟩ d).1 = true := by
  have hv : ∀ w, fval (nanOf w) = .nan := fun w => (fval_nan_iff _).mpr (isNaN_nanOf w)
  have h1 : subResult ⟨0x7FF8000000000000#64⟩ fZero = none := by decide
  have h2 : ∀ w, mulResult fOne (nanOf w) = none := by
    intro w
    have : fval fOne = .fin false ((2 ^ 52) <<< 1022) := by decide +kernel
    simp [mulResult, hv, this]
  have h3 : ∀ w, addResult fZero (nanOf w) = none := by intro w; simp [addResult, hv]
  simp [onePole, fsub, fmul, fadd, h1, orNaN_none, h2, h3, isNaN_nanOf]

theorem test_witness_PostFilterResetsNaN :
    isNaN (onePole fOne fZero ⟨0x7FF8000000000000#64⟩ 0).1 = true ∧ isNaN (onePole fOne fZero fTwo 0).1 = false :=
  ⟨onePole_isNaN 0, by decide +kernel⟩

theorem test_witness_CoefficientsLieInTheUnitInterval :
    flt fZero ⟨0x8000000000000000#64⟩ = false ∧ flt fZero ⟨0x7FF8000000000000#64⟩ = false ∧ flt fZero fMinusOne = false := by
  decide
theorem test_witness_DecimationFactorIsTheClampedQuotient :
    (47999#32).toNat < (48000#32).toNat ∧ (48000#32 : BitVec 32) ≠ 0#32 ∧ (48000#32).toNat ≤ (48000#32).toNat := by decide
theorem test_witness_PhaseIsWrappedIntoOneTurn :
    finite fTwoPi = true ∧ finite ⟨0xFFEFFFFFFFFFFFFF#64⟩ = true ∧ finite (fInf false) = false ∧
    finite ⟨0x7FF8000000000000#64⟩ = false := by decide
theorem test_witness_SilentBlockStaysSilent :
    finite aCtx.volume = true ∧ fsign aCtx.volume = false ∧
    flt ⟨0xC3F0000000000000#64⟩ (coeffs aCtx 0).1.step = true ∧
    flt (coeffs aCtx 0).1.step ⟨0x43F0000000000000#64⟩ = true := by decide +kernel

theorem test_witness_PublishedSnapshotReadsBack :
    Memory.wf small.build small.mem = true ∧
    (List.replicate 4 fOne).length = small.build.fftN ∧ (List.replicate 4 0xFF000000#64).length = small.build.fftN := by
  decide
theorem test_witness_PaletteIndexIsInRange :
    flt ({ aCtx with dbMin := fOne, dbMax := fOne } : Ctx).dbMin ({ aCtx with dbMin := fOne, dbMax := fOne } : Ctx).dbMax =
      false := by decide
theorem test_witness_ConfigurationFunctionsHaveTheirProperties :
    finite (fInf true) = false ∧ finite fOne = true ∧ feq ⟨0x8000000000000000#64⟩ fZero = true ∧
    flt fZero (fInf false) = true ∧ flt fZero ⟨1#64⟩ = true ∧ isNaN ⟨0x7FF8000000000000#64⟩ = true := by decide
/-- 3/2 units is a tie between 1 and 2. -/
theorem test_witness_RoundingIsToNearestTiesToEven :
    0 < 2 ∧ fval (fround false 3 2) = .fin false 2 ∧ fval ⟨1#64⟩ = .fin false 1 ∧
    ((3 : Int) - (2 : Nat) * (2 : Nat)).natAbs = ((3 : Int) - (1 : Nat) * (2 : Nat)).natAbs ∧ 1 ≠ 2 := by decide +kernel

end Sys2Proof.Tests
end

section
/-! PROOF. Binary64 encodings and rounding: what the class and magnitude of a value are in terms of its
lower 63 bits, and that `roundBits` gives the nearest encoding, ties to even (R15). -/

namespace Sys2Proof.Machine

/-! ### The lower 63 bits of a value -/

/-- The exponent and fraction fields as one number; its order is the order of magnitudes. -/
def encoding (x : F64) : Nat := x.bits.toNat % 2 ^ 63

/-- The magnitude, in units of 2^-1074, of the finite value with encoding `e`. -/
def units (e : Nat) : Nat :=
  if e < 2 ^ 52 then e else (2 ^ 52 + e % 2 ^ 52) * 2 ^ (e / 2 ^ 52 - 1)

theorem encoding_lt (x : F64) : encoding x < 2 ^ 63 := Nat.mod_lt _ (by decide)

theorem fexp_eq_encoding (x : F64) : fexp x = encoding x / 2 ^ 52 := by
  rw [fexp_eq, encoding]; omega

theorem ffrac_eq_encoding (x : F64) : ffrac x = encoding x % 2 ^ 52 := by
  rw [ffrac_eq, encoding]; omega

theorem isNaN_iff_encoding (x : F64) : isNaN x = true ↔ 2047 * 2 ^ 52 < encoding x := by
  have hlt := encoding_lt x
  simp only [isNaN, fexp_eq_encoding, ffrac_eq_encoding, Bool.and_eq_true, beq_iff_eq, bne_iff_ne]
  omega

theorem finite_iff_encoding (x : F64) : finite x = true ↔ encoding x < 2047 * 2 ^ 52 := by
  have hlt := encoding_lt x
  simp only [finite, fexp_eq_encoding, bne_iff_ne]
  omega

theorem fkey_eq_encoding (x : F64) : fkey x = if fsign x then -(encoding x : Int) else (encoding x : Int) := rfl

/-- The class of a value, by its encoding. -/
theorem fval_eq_encoding (x : F64) :
    fval x = if encoding x < 2047 * 2 ^ 52 then .fin (fsign x) (units (encoding x))
      else if encoding x = 2047 * 2 ^ 52 then .inf (fsign x) else .nan := by
  have hlt := encoding_lt x
  rcases Nat.lt_trichotomy (encoding x) (2047 * 2 ^ 52) with h | h | h
  · have hexp : encoding x / 2 ^ 52 ≠ 2047 := by omega
    rw [if_pos h, fval, units, fexp_eq_encoding, ffrac_eq_encoding, if_neg hexp, Nat.shiftLeft_eq]
    by_cases h0 : encoding x < 2 ^ 52
    · rw [if_pos h0, if_pos (by omega), Nat.mod_eq_of_lt h0]
    · rw [if_neg h0, if_neg (by omega)]
  · have hexp : encoding x / 2 ^ 52 = 2047 := by omega
    have hfrac : encoding x % 2 ^ 52 = 0 := by omega
    rw [if_neg (by omega), if_pos h, fval, fexp_eq_encoding, ffrac_eq_encoding, if_pos hexp, if_pos hfrac]
  · rw [if_neg (by omega), if_neg (by omega), fval_nan_iff, isNaN_iff_encoding]
    exact h

theorem fval_eq_fin_iff (x : F64) (s : Bool) (a : Nat) :
    fval x = .fin s a ↔ encoding x < 2047 * 2 ^ 52 ∧ fsign x = s ∧ units (encoding x) = a := by
  rw [fval_eq_encoding]
  split
  case isTrue h => simp only [FVal.fin.injEq, h, true_and]
  case isFalse h => split <;> simp only [reduceCtorEq, h, false_and]

theorem fval_eq_inf_iff (x : F64) (s : Bool) :
    fval x = .inf s ↔ encoding x = 2047 * 2 ^ 52 ∧ fsign x = s := by
  rw [fval_eq_encoding]
  split
  case isTrue h => simp only [reduceCtorEq, h.ne, false_and]
  case isFalse => split <;> simp only [FVal.inf.injEq, reduceCtorEq, true_and, false_and, *]

theorem fval_of_finite {x : F64} (h : finite x = true) : fval x = .fin (fsign x) (units (encoding x)) :=
  (fval_eq_fin_iff ..).2 ⟨(finite_iff_encoding x).1 h, rfl, rfl⟩

theorem finite_of_fval {x : F64} {s : Bool} {a : Nat} (h : fval x = .fin s a) : finite x = true :=
  (finite_iff_encoding x).2 ((fval_eq_fin_iff ..).1 h).1

/-! ### The magnitudes that encodings stand for -/

theorem units_zero_iff (e : Nat) : units e = 0 ↔ e = 0 := by
  unfold units
  split
  · rfl
  · have : 0 < (2 ^ 52 + e % 2 ^ 52) * 2 ^ (e / 2 ^ 52 - 1) := by positivity
    omega

theorem units_of_lt {e : Nat} (h : e < 2 ^ 52) : units e = e := if_pos h

theorem units_of_fields {p f : Nat} (hf : f < 2 ^ 52) : units ((p + 1) * 2 ^ 52 + f) = (2 ^ 52 + f) * 2 ^ p := by
  have hdiv : ((p + 1) * 2 ^ 52 + f) / 2 ^ 52 = p + 1 := by omega
  have hmod : ((p + 1) * 2 ^ 52 + f) % 2 ^ 52 = f := by omega
  rw [units, if_neg (by omega), hdiv, hmod, Nat.add_sub_cancel]

/-- The encoding of `m` units of `2^sh`, the carry into the exponent included. -/
theorem units_scaled {sh m : Nat} (hm : m ≤ 2 ^ 53) (hnorm : sh = 0 ∨ 2 ^ 52 ≤ m) :
    units (sh * 2 ^ 52 + m) = m * 2 ^ sh := by
  by_cases hsub : m < 2 ^ 52
  · obtain rfl : sh = 0 := by omega
    simp [units_of_lt hsub]
  · obtain ⟨f, rfl⟩ := Nat.exists_eq_add_of_le (Nat.le_of_not_lt hsub)
    by_cases hf : f < 2 ^ 52
    · rw [show sh * 2 ^ 52 + (2 ^ 52 + f) = (sh + 1) * 2 ^ 52 + f by ring, units_of_fields hf]
    · obtain rfl : f = 2 ^ 52 := by omega
      rw [show sh * 2 ^ 52 + (2 ^ 52 + 2 ^ 52) = (sh + 1 + 1) * 2 ^ 52 + 0 by ring, units_of_fields (by omega)]
      ring

/-- Every encoding is an exponent field over a fraction field; the first one is subnormal. -/
theorem encoding_cases (e : Nat) : e < 2 ^ 52 ∨ ∃ p f, f < 2 ^ 52 ∧ e = (p + 1) * 2 ^ 52 + f := by
  by_cases h : e < 2 ^ 52
  · exact .inl h
  · exact .inr ⟨e / 2 ^ 52 - 1, e % 2 ^ 52, by omega, by omega⟩

theorem units_lt_succ (e : Nat) : units e < units (e + 1) := by
  rcases encoding_cases e with h | ⟨p, f, hf, rfl⟩
  · have := units_scaled (sh := 0) (m := e + 1) (by omega) (.inl rfl)
    simp only [Nat.zero_mul, Nat.zero_add, Nat.pow_zero, Nat.mul_one] at this
    rw [units_of_lt h, this]
    omega
  · have hsucc := units_scaled (sh := p) (m := 2 ^ 52 + f + 1) (by omega) (.inr (by omega))
    rw [show p * 2 ^ 52 + (2 ^ 52 + f + 1) = (p + 1) * 2 ^ 52 + f + 1 by ring] at hsucc
    rw [units_of_fields hf, hsucc]
    exact Nat.mul_lt_mul_of_pos_right (by omega) (by positivity)

theorem units_strictMono : StrictMono units := strictMono_nat_of_lt_succ units_lt_succ

/-- A magnitude is a multiple of `2^sh`, or it lies below the 53-bit numbers of units of `2^sh`. -/
theorem units_dvd_or_lt (e sh : Nat) : 2 ^ sh ∣ units e ∨ units e < 2 ^ 52 * 2 ^ sh := by
  rcases encoding_cases e with h | ⟨p, f, hf, rfl⟩
  · rw [units_of_lt h]
    exact .inr (h.trans_le (Nat.le_mul_of_pos_right _ (by positivity)))
  · rw [units_of_fields hf]
    by_cases hp : sh ≤ p
    · exact .inl (Dvd.dvd.mul_left (Nat.pow_dvd_pow 2 hp) _)
    · right
      calc (2 ^ 52 + f) * 2 ^ p < 2 ^ 53 * 2 ^ p := Nat.mul_lt_mul_of_pos_right (by omega) (by positivity)
        _ = 2 ^ 52 * 2 ^ (p + 1) := by ring
        _ ≤ 2 ^ 52 * 2 ^ sh := Nat.mul_le_mul_left _ (Nat.pow_le_pow_right (by omega) (by omega))

/-! ### The parts of a rounding -/

/-- The places by which a quotient exceeds 53 bits. -/
def excess (n d : Nat) : Nat := (Nat.log2 (n / d) + 1) - 53

/-- `n / den` rounded to a whole number, ties to even. -/
def roundDiv (n den : Nat) : Nat :=
  if den < 2 * (n % den) ∨ (2 * (n % den) = den ∧ n / den % 2 = 1) then n / den + 1 else n / den

theorem roundDiv_cases (n den : Nat) :
    (roundDiv n den = n / den ∧ 2 * (n % den) ≤ den ∧ (2 * (n % den) = den → n / den % 2 = 0)) ∨
    (roundDiv n den = n / den + 1 ∧ den ≤ 2 * (n % den) ∧ (2 * (n % den) = den → n / den % 2 = 1)) := by
  unfold roundDiv
  split <;> omega

/-- How far the exact `n / d` lies from the whole number `k`, in units of `1 / d`. -/
def gap (n d k : Nat) : Nat := ((n : Int) - k * d).natAbs

theorem gap_of_le {n d k : Nat} (h : n ≤ k * d) : gap n d k = k * d - n := by
  unfold gap
  zify [h]
  rw [abs_sub_comm, abs_of_nonneg (by zify at h; linarith)]

theorem gap_of_ge {n d k : Nat} (h : k * d ≤ n) : gap n d k = n - k * d := by
  unfold gap
  zify [h]
  rw [abs_of_nonneg (by zify at h; linarith)]

/-- The gap to a whole number at or below the quotient. -/
theorem gap_below (n den : Nat) {k j : Nat} (hk : k + j = n / den) : gap n den k = n % den + j * den := by
  have hn : (k + j) * den + n % den = n := by rw [hk]; exact Nat.div_add_mod' n den
  rw [Nat.add_mul] at hn
  rw [gap_of_ge (by omega)]
  omega

/-- The gap to a whole number above the quotient. -/
theorem gap_above {n den : Nat} (h : 0 < den) (j : Nat) :
    gap n den (n / den + 1 + j) = den - n % den + j * den := by
  have hn := Nat.div_add_mod' n den
  have hr := Nat.mod_lt n h
  have hmul : (n / den + 1 + j) * den = n / den * den + den + j * den := by ring
  rw [gap_of_le (by omega)]
  omega

/-- Only the two whole numbers around the quotient are nearer than 1. -/
theorem gap_cases {n den : Nat} (h : 0 < den) (k : Nat) :
    (k = n / den ∧ gap n den k = n % den) ∨ (k = n / den + 1 ∧ gap n den k = den - n % den) ∨ den ≤ gap n den k := by
  have hstep (j : Nat) : j = 0 ∨ den ≤ j * den := j.eq_zero_or_pos.imp_right (Nat.le_mul_of_pos_left _)
  rcases Nat.lt_or_ge (n / den) k with hk | hk
  · obtain ⟨j, rfl⟩ := Nat.exists_eq_add_of_le hk
    rw [Nat.succ_eq_add_one, gap_above h]
    rcases hstep j with rfl | hj <;> omega
  · obtain ⟨j, hj⟩ := Nat.exists_eq_add_of_le hk
    rw [gap_below n den hj.symm]
    rcases hstep j with rfl | hj <;> omega

/-- `roundDiv` is the nearest whole number, and the even one of two that are as near. -/
theorem roundDiv_nearest {n den : Nat} (h : 0 < den) (k : Nat) :
    gap n den (roundDiv n den) ≤ gap n den k ∧
    (gap n den (roundDiv n den) = gap n den k → k ≠ roundDiv n den → roundDiv n den % 2 = 0) := by
  have hr := Nat.mod_lt n h
  have hfloor : gap n den (n / den) = n % den := by simpa using gap_below n den (k := n / den) (j := 0) rfl
  have hceil : gap n den (n / den + 1) = den - n % den := by simpa using gap_above (n := n) h 0
  rcases roundDiv_cases n den with ⟨hq, hrem, heven⟩ | ⟨hq, hrem, hodd⟩ <;> rw [hq] <;>
    rcases gap_cases (n := n) h k with ⟨hk, hg⟩ | ⟨hk, hg⟩ | hg <;> omega

/-! ### Rounding to nearest -/

/-- The encoding that `n / d` units round to when the exponent has no upper bound. -/
def nearest (n d : Nat) : Nat := excess n d * 2 ^ 52 + roundDiv n (d * 2 ^ excess n d)

theorem roundBits_eq_min (n d : Nat) : roundBits n d = min (nearest n d) (2047 * 2 ^ 52) := by
  rw [nearest, ← Nat.shiftLeft_eq d]
  rfl

/-- In units of `2 ^ excess` the quotient has at most 53 bits, and 53 when there is an excess. -/
theorem scaled_quotient_bounds (n d : Nat) :
    n / (d * 2 ^ excess n d) < 2 ^ 53 ∧ (excess n d = 0 ∨ 2 ^ 52 ≤ n / (d * 2 ^ excess n d)) := by
  rw [← Nat.div_div_eq_div_mul, Nat.div_lt_iff_lt_mul (by positivity), Nat.le_div_iff_mul_le (by positivity),
    ← Nat.pow_add, ← Nat.pow_add]
  constructor
  · exact Nat.lt_log2_self.trans_le (Nat.pow_le_pow_right (by decide) (by unfold excess; omega))
  · refine or_iff_not_imp_left.2 fun he => ?_
    have hlog : 52 + excess n d = Nat.log2 (n / d) := by unfold excess at he ⊢; omega
    rw [hlog]
    refine Nat.log2_self_le fun h0 => ?_
    rw [h0, Nat.log2_zero] at hlog
    omega

/-- What the rounded encoding stands for. -/
theorem units_nearest (n d : Nat) : units (nearest n d) = roundDiv n (d * 2 ^ excess n d) * 2 ^ excess n d := by
  obtain ⟨hlt, hge⟩ := scaled_quotient_bounds n d
  refine units_scaled ?_ (hge.imp_right fun hge => ?_) <;>
    rcases roundDiv_cases n (d * 2 ^ excess n d) with ⟨hq, -⟩ | ⟨hq, -⟩ <;> omega

theorem gap_scale (n d k sh : Nat) : gap n d (k * 2 ^ sh) = gap n (d * 2 ^ sh) k := by
  unfold gap
  congr 1
  push_cast
  ring

/-- A magnitude with fewer than 53 bits in units of `2 ^ sh` lies farther off than the quotient itself. -/
theorem mod_lt_gap_of_lt {n d sh k : Nat} (hd : 0 < d) (hk : k < 2 ^ 52 * 2 ^ sh) (hq : 2 ^ 52 ≤ n / (d * 2 ^ sh)) :
    n % (d * 2 ^ sh) < gap n d k := by
  have hn := Nat.div_add_mod' n (d * 2 ^ sh)
  have hlow : k * d < n / (d * 2 ^ sh) * (d * 2 ^ sh) :=
    calc k * d < 2 ^ 52 * 2 ^ sh * d := Nat.mul_lt_mul_of_pos_right hk hd
      _ = 2 ^ 52 * (d * 2 ^ sh) := by ring
      _ ≤ n / (d * 2 ^ sh) * (d * 2 ^ sh) := Nat.mul_le_mul_right _ hq
  rw [gap_of_ge (by omega)]
  omega

/-- No encoding stands for a value nearer to `n / d`, and the rounded one is even at a tie (R15). -/
theorem nearest_is_nearest {n d : Nat} (hd : 0 < d) (e : Nat) :
    gap n d (units (nearest n d)) ≤ gap n d (units e) ∧
    (gap n d (units (nearest n d)) = gap n d (units e) → units e ≠ units (nearest n d) → nearest n d % 2 = 0) := by
  have hden : 0 < d * 2 ^ excess n d := by positivity
  have hparity : nearest n d % 2 = roundDiv n (d * 2 ^ excess n d) % 2 := by unfold nearest; omega
  rw [hparity, units_nearest, gap_scale]
  by_cases hdvd : 2 ^ excess n d ∣ units e
  · obtain ⟨k, hk⟩ := hdvd
    obtain ⟨hle, htie⟩ := roundDiv_nearest (n := n) hden k
    rw [hk, Nat.mul_comm _ k, gap_scale]
    exact ⟨hle, fun heq hne => htie heq fun h => hne (by rw [h])⟩
  · have hlow := (units_dvd_or_lt e (excess n d)).resolve_left hdvd
    have hq := (scaled_quotient_bounds n d).2.resolve_left fun h0 => hdvd (by simp [h0])
    have hfar := mod_lt_gap_of_lt hd hlow hq
    have hnear := (roundDiv_nearest (n := n) hden (n / (d * 2 ^ excess n d))).1
    rw [gap_below n _ (Nat.add_zero _), Nat.zero_mul] at hnear
    omega

/-- Rounding stays at or below an encoding whose value the ratio does not exceed. -/
theorem roundBits_le_of_le {n d e : Nat} (hd : 0 < d) (h : n ≤ units e * d) : roundBits n d ≤ e := by
  have hnear := (nearest_is_nearest (n := n) hd e).1
  have hle : nearest n d ≤ e := by
    by_contra hlt
    have hmul := Nat.mul_lt_mul_of_pos_right (units_strictMono (Nat.lt_of_not_le hlt)) hd
    rw [gap_of_le h, gap_of_le (by omega)] at hnear
    omega
  rw [roundBits_eq_min]
  omega

/-- Rounding stays at or above an encoding whose value the ratio reaches. -/
theorem le_roundBits_of_le {n d e : Nat} (hd : 0 < d) (he : e ≤ 2047 * 2 ^ 52) (h : units e * d ≤ n) :
    e ≤ roundBits n d := by
  have hnear := (nearest_is_nearest (n := n) hd e).1
  have hle : e ≤ nearest n d := by
    by_contra hlt
    have hmul := Nat.mul_lt_mul_of_pos_right (units_strictMono (Nat.lt_of_not_le hlt)) hd
    rw [gap_of_ge h, gap_of_ge (by omega)] at hnear
    omega
  rw [roundBits_eq_min]
  omega

/-! ### The rounded value -/

theorem encoding_fround (s : Bool) (n d : Nat) : encoding (fround s n d) = roundBits n d :=
  magnitude_withSign s ((roundBits_le n d).trans_lt (by decide))

/-- The last bit of a value is the parity of its encoding. -/
theorem getLsbD_zero_eq_encoding (x : F64) : x.bits.getLsbD 0 = decide (encoding x % 2 = 1) := by
  rw [BitVec.getLsbD, Nat.testBit_zero, encoding]
  congr 2
  omega

/-- Settles O60: the rounded encoding is the nearest of those with an unbounded exponent. -/
theorem roundingIsToNearestTiesToEven : Obligations.RoundingIsToNearestTiesToEven := by
  unfold Obligations.RoundingIsToNearestTiesToEven
  intro n d r hd hr y s m hy
  obtain ⟨hfin, -, rfl⟩ := (fval_eq_fin_iff ..).1 hr
  obtain ⟨-, -, rfl⟩ := (fval_eq_fin_iff ..).1 hy
  have hround : encoding (fround false n d) = nearest n d := by
    rw [encoding_fround, roundBits_eq_min] at hfin ⊢
    omega
  obtain ⟨hle, htie⟩ := nearest_is_nearest (n := n) hd (encoding y)
  rw [getLsbD_zero_eq_encoding, hround]
  refine ⟨hle, fun heq hne => ?_⟩
  simp [htie heq hne]

end Sys2Proof.Machine
end

section
/-! PROOF. What the order of values says of their classes, and with it the configuration functions (R18). -/

namespace Sys2Proof.Machine

/-! ### Values in order -/

@[simp] theorem fkey_fZero : fkey fZero = 0 := by decide
@[simp] theorem fkey_fOne : fkey fOne = 1023 * 2 ^ 52 := by decide
@[simp] theorem fkey_fMinusOne : fkey fMinusOne = -(1023 * 2 ^ 52) := by decide

theorem flt_iff (x y : F64) : flt x y = true ↔ isNaN x = false ∧ isNaN y = false ∧ fkey x < fkey y := by
  simp [flt, and_assoc]

theorem fle_iff (x y : F64) : fle x y = true ↔ isNaN x = false ∧ isNaN y = false ∧ fkey x ≤ fkey y := by
  simp [fle, and_assoc]

theorem feq_iff (x y : F64) : feq x y = true ↔ isNaN x = false ∧ isNaN y = false ∧ fkey x = fkey y := by
  simp [feq, and_assoc]

theorem natAbs_fkey (x : F64) : (fkey x).natAbs = encoding x := by
  rw [fkey_eq_encoding]
  split <;> omega

theorem fsign_of_fkey_pos {x : F64} (h : 0 < fkey x) : fsign x = false := by
  rw [fkey_eq_encoding] at h
  split at h
  case isTrue => omega
  case isFalse hs => exact Bool.eq_false_iff.2 hs

/-! ### Finite values and zeros -/

theorem isNaN_of_finite {x : F64} (h : finite x = true) : isNaN x = false := by
  rw [finite_iff_encoding] at h
  rw [← Bool.not_eq_true, isNaN_iff_encoding]
  omega

theorem fval_of_not_finite {x : F64} (h : finite x = false) : fval x = .nan ∨ ∃ s, fval x = .inf s := by
  cases hv : fval x with
  | nan => exact .inl rfl
  | inf s => exact .inr ⟨s, rfl⟩
  | fin s a => simp [finite_of_fval hv] at h

theorem fval_zero_iff (x : F64) : (∃ s, fval x = .fin s 0) ↔ fkey x = 0 := by
  rw [← Int.natAbs_eq_zero, natAbs_fkey]
  simp only [fval_eq_fin_iff, units_zero_iff]
  exact ⟨fun ⟨_, _, _, h⟩ => h, fun h => ⟨fsign x, by omega, rfl, h⟩⟩

/-- Only the two zeros equal zero. -/
theorem fval_of_feq_fZero {x : F64} (h : feq x fZero = true) : ∃ s, fval x = .fin s 0 := by
  rw [feq_iff, fkey_fZero] at h
  exact (fval_zero_iff x).2 h.2.2

/-- A value above zero is +infinity or a positive finite value. -/
theorem fval_of_flt_fZero {x : F64} (h : flt fZero x = true) :
    fval x = .inf false ∨ ∃ a, fval x = .fin false a ∧ a ≠ 0 := by
  rw [flt_iff, fkey_fZero] at h
  obtain ⟨-, hnan, hkey⟩ := h
  have hsign := fsign_of_fkey_pos hkey
  rcases fval_of_not_isNaN x hnan with ⟨s, hv⟩ | ⟨s, a, hv⟩
  · obtain ⟨-, rfl⟩ := (fval_eq_inf_iff ..).1 hv
    exact .inl (hsign ▸ hv)
  · obtain rfl : fsign x = s := ((fval_eq_fin_iff ..).1 hv).2.1
    refine .inr ⟨a, hsign ▸ hv, ?_⟩
    rintro rfl
    exact hkey.ne' ((fval_zero_iff x).1 ⟨_, hv⟩)

/-- A value in [-1, 1] is finite. -/
theorem finite_of_fle_one {x : F64} (hlo : fle fMinusOne x = true) (hhi : fle x fOne = true) : finite x = true := by
  rw [fle_iff, fkey_fMinusOne] at hlo
  rw [fle_iff, fkey_fOne] at hhi
  rw [finite_iff_encoding, ← natAbs_fkey]
  omega

/-- The zeros lie in [-1, 1]. -/
theorem fle_one_of_zero {x : F64} {s : Bool} (h : fval x = .fin s 0) :
    fle fMinusOne x = true ∧ fle x fOne = true := by
  have hkey := (fval_zero_iff x).1 ⟨s, h⟩
  have hnan := isNaN_of_finite (finite_of_fval h)
  rw [fle_iff, fle_iff, hkey, fkey_fMinusOne, fkey_fOne]
  exact ⟨⟨isNaN_fMinusOne, hnan, by decide⟩, hnan, isNaN_fOne, by decide⟩

/-! ### The configuration functions (R18) -/

theorem isNaN_drawNaN (d : Nat) : isNaN (drawNaN d).1 = true := isNaN_nanOf _

theorem cos64_of_zero {x : F64} {s : Bool} (h : fval x = .fin s 0) (d : Nat) : cos64 x d = (fOne, d) := by
  simp [cos64, h]

theorem cos64_of_nonzero {x : F64} {s : Bool} {a : Nat} (h : fval x = .fin s a) (ha : a ≠ 0) (d : Nat) :
    cos64 x d = (inUnit (Config.cosRaw x), d) := by
  simp [cos64, h, ha]

theorem isNaN_cos64 {x : F64} (h : finite x = false) (d : Nat) : isNaN (cos64 x d).1 = true := by
  rcases fval_of_not_finite h with hv | ⟨s, hv⟩ <;> simp [cos64, hv, isNaN_drawNaN]

/-- `COS64` of a finite value draws nothing and lies in [-1, 1]. -/
theorem cos64_of_finite {x : F64} (h : finite x = true) :
    ∃ c, (∀ d, cos64 x d = (c, d)) ∧ fle fMinusOne c = true ∧ fle c fOne = true := by
  have hv := fval_of_finite h
  by_cases ha : units (encoding x) = 0
  · rw [ha] at hv
    exact ⟨fOne, cos64_of_zero hv, by decide, by decide⟩
  · exact ⟨_, cos64_of_nonzero hv ha, inUnit_range _⟩

theorem sin64_of_zero {x : F64} {s : Bool} (h : fval x = .fin s 0) (d : Nat) : sin64 x d = (x, d) := by
  simp [sin64, h]

theorem sin64_of_nonzero {x : F64} {s : Bool} {a : Nat} (h : fval x = .fin s a) (ha : a ≠ 0) (d : Nat) :
    sin64 x d = (inUnit (Config.sinRaw x), d) := by
  simp [sin64, h, ha]

theorem isNaN_sin64 {x : F64} (h : finite x = false) (d : Nat) : isNaN (sin64 x d).1 = true := by
  rcases fval_of_not_finite h with hv | ⟨s, hv⟩ <;> simp [sin64, hv, isNaN_drawNaN]

/-- `SIN64` of a finite value draws nothing and lies in [-1, 1]. -/
theorem sin64_of_finite {x : F64} (h : finite x = true) :
    ∃ c, (∀ d, sin64 x d = (c, d)) ∧ fle fMinusOne c = true ∧ fle c fOne = true := by
  have hv := fval_of_finite h
  by_cases ha : units (encoding x) = 0
  · rw [ha] at hv
    exact ⟨x, sin64_of_zero hv, fle_one_of_zero hv⟩
  · exact ⟨_, sin64_of_nonzero hv ha, inUnit_range _⟩

/-- A zero over a positive value gives that zero back. -/
theorem atan2_of_zero_of_pos {y x : F64} (hy : feq y fZero = true) (hx : flt fZero x = true) (d : Nat) :
    atan2 y x d = (y, d) := by
  obtain ⟨s, hy⟩ := fval_of_feq_fZero hy
  rcases fval_of_flt_fZero hx with hx | ⟨a, hx, -⟩ <;> simp [atan2, hy, hx]

/-- A positive value over a zero gives the angle π/2. -/
theorem atan2_of_pos_of_zero {y x : F64} (hy : flt fZero y = true) (hx : feq x fZero = true) (d : Nat) :
    atan2 y x d = (fHalfPi, d) := by
  obtain ⟨s, hx⟩ := fval_of_feq_fZero hx
  rcases fval_of_flt_fZero hy with hy | ⟨a, hy, ha⟩
  · simp [atan2, hy, hx, signed]
  · simp [atan2, hy, hx, ha, signed]

theorem isNaN_atan2 {y x : F64} (h : isNaN x = true ∨ isNaN y = true) (d : Nat) : isNaN (atan2 y x d).1 = true := by
  rw [← fval_nan_iff, ← fval_nan_iff] at h
  rcases h with hx | hy
  · cases hy : fval y <;> simp [atan2, hx, hy, isNaN_drawNaN]
  · simp [atan2, hy, isNaN_drawNaN]

theorem log10_fOne (d : Nat) : log10 fOne d = (fZero, d) := rfl

/-- Settles O59, a property at a time. -/
theorem configurationFunctionsHaveTheirProperties : Obligations.ConfigurationFunctionsHaveTheirProperties := by
  unfold Obligations.ConfigurationFunctionsHaveTheirProperties
  intro x y d
  have hplus : fval ⟨0#64⟩ = .fin false 0 := by decide
  have hminus : fval ⟨0x8000000000000000#64⟩ = .fin true 0 := by decide
  refine ⟨cos64_of_zero hplus d, cos64_of_zero hminus d, sin64_of_zero hplus d, sin64_of_zero hminus d,
    fun hx => ⟨isNaN_cos64 hx d, isNaN_sin64 hx d⟩, fun hx => ?_, fun hy hx => atan2_of_zero_of_pos hy hx d,
    fun hy hx => atan2_of_pos_of_zero hy hx d, fun h => isNaN_atan2 h d, log10_fOne d⟩
  obtain ⟨c, hcos, hcos_lo, hcos_hi⟩ := cos64_of_finite hx
  obtain ⟨r, hsin, hsin_lo, hsin_hi⟩ := sin64_of_finite hx
  rw [hcos, hsin]
  exact ⟨hcos_lo, hcos_hi, hsin_lo, hsin_hi⟩

end Sys2Proof.Machine
end

section
/-! PROOF. Arithmetic of finite values with bounds on its results, and with it the palette index (R508)
and the window entries (R302, R303), none of whose operations gives a NaN. -/

namespace Sys2Proof.Machine

/-! ### Bounds on the results of finite operations -/

/-- The encoding of `2^p`. -/
def powEncoding (p : Nat) : Nat := (p + 1023) * 2 ^ 52

theorem shiftLeft_eq_mul_one_shiftLeft (k p : Nat) : k <<< p = k * (1 <<< p) := by
  rw [Nat.shiftLeft_eq, Nat.one_shiftLeft]

theorem two_pow_mul_one_shiftLeft (p i j : Nat) : 2 ^ i * 2 ^ (p + j) = 2 ^ p * (1 <<< (i + j)) := by
  rw [Nat.one_shiftLeft]
  ring

theorem units_of_exponent (p : Nat) : units ((p + 1) * 2 ^ 52) = 2 ^ 52 * 2 ^ p := by
  simpa only [Nat.add_zero] using units_of_fields (p := p) (f := 0) (by decide)

theorem units_powEncoding (p : Nat) : units (powEncoding p) = 2 ^ p * (1 <<< 1074) :=
  (units_of_exponent (p + 1022)).trans (two_pow_mul_one_shiftLeft p 52 1022)

theorem units_le_of_encoding_le {e p : Nat} (h : e ≤ powEncoding p) : units e ≤ 2 ^ p * (1 <<< 1074) :=
  (units_strictMono.monotone h).trans_eq (units_powEncoding p)

/-- A ratio of at most `2^p` rounds to at most `2^p`. -/
theorem roundBits_le_powEncoding {n d p : Nat} (hd : 0 < d) (h : n ≤ 2 ^ p * (1 <<< 1074) * d) :
    roundBits n d ≤ powEncoding p :=
  roundBits_le_of_le hd (by rwa [units_powEncoding])

theorem one_shiftLeft_pos (p : Nat) : 0 < 1 <<< p := by
  rw [Nat.one_shiftLeft]; positivity

theorem finite_of_encoding_le {x : F64} {p : Nat} (h : encoding x ≤ powEncoding p) (hp : p ≤ 1023) :
    finite x = true := by
  rw [finite_iff_encoding]
  unfold powEncoding at h
  omega

theorem fmul_of_finite {x y : F64} (hx : finite x = true) (hy : finite y = true) (d : Nat) :
    fmul x y d =
      (fround (fsign x != fsign y) (units (encoding x) * units (encoding y)) (1 <<< 1074), d) := by
  rw [fmul, mulResult_finite (fval_of_finite hx) (fval_of_finite hy), orNaN_some]

theorem fdiv_of_finite {x y : F64} (hx : finite x = true) (hy : finite y = true) (h0 : encoding y ≠ 0) (d : Nat) :
    fdiv x y d =
      (fround (fsign x != fsign y) (units (encoding x) <<< 1074) (units (encoding y)), d) := by
  have hunits : units (encoding y) ≠ 0 := fun h => h0 ((units_zero_iff _).1 h)
  simp only [fdiv, divResult, fval_of_finite hx, fval_of_finite hy, if_neg hunits, orNaN_some]

/-- A product of finite values draws nothing and is no NaN. -/
theorem fmul_draws_nothing {x y : F64} (hx : finite x = true) (hy : finite y = true) :
    ∃ z, (∀ d, fmul x y d = (z, d)) ∧ isNaN z = false :=
  ⟨_, fmul_of_finite hx hy, isNaN_fround ..⟩

theorem encoding_fneg (x : F64) : encoding (fneg x) = encoding x := by
  unfold encoding fneg
  rw [BitVec.toNat_xor, Nat.xor_mod_two_pow]
  simp

theorem isNaN_fneg (x : F64) : isNaN (fneg x) = isNaN x := by
  rw [Bool.eq_iff_iff, isNaN_iff_encoding, isNaN_iff_encoding, encoding_fneg]

/-- A finite value minus anything but a NaN draws nothing. -/
theorem fsub_of_finite {x y : F64} (hx : finite x = true) (hy : isNaN y = false) :
    ∃ z, ∀ d, fsub x y d = (z, d) := by
  have hres : ∃ z, subResult x y = some z := by
    rcases fval_of_not_isNaN (fneg y) ((isNaN_fneg y).trans hy) with ⟨s, hv⟩ | ⟨s, a, hv⟩
    · exact ⟨fInf s, by simp only [subResult, addResult, fval_of_finite hx, hv]⟩
    · exact addResult_finite (fval_of_finite hx) hv
  obtain ⟨z, hz⟩ := hres
  exact ⟨z, fun d => by rw [fsub, hz, orNaN_some]⟩

/-! ### The palette index (R508) -/

/-- The two clamps of `pixelIndex`. -/
def clampUnit (t : F64) : F64 :=
  let t1 := if flt fZero t then t else fZero
  if flt fOne t1 then fOne else t1

theorem clampUnit_fZero : clampUnit fZero = fZero := by decide

/-- The clamps answer 0, 1, or the value itself when it lies in between; a NaN becomes 0. -/
theorem clampUnit_cases (t : F64) :
    clampUnit t = fZero ∨ clampUnit t = fOne ∨
    (clampUnit t = t ∧ flt fZero t = true ∧ flt fOne t = false) := by
  unfold clampUnit
  cases hpos : flt fZero t
  · exact .inl clampUnit_fZero
  · cases hbig : flt fOne t <;> simp [hbig]

theorem encoding_clampUnit_le (t : F64) : encoding (clampUnit t) ≤ powEncoding 0 := by
  rcases clampUnit_cases t with h | h | ⟨h, hpos, hbig⟩
  · rw [h]; decide
  · rw [h]; decide
  · obtain ⟨-, hnan, hkey⟩ := (flt_iff ..).1 hpos
    rw [← Bool.not_eq_true, flt_iff] at hbig
    simp only [isNaN_fOne, hnan, fkey_fOne, true_and] at hbig
    rw [h, ← natAbs_fkey, powEncoding]
    rw [fkey_fZero] at hkey
    omega

theorem finite_f255 : finite f255 = true := by decide

/-- `floor(255 t)` is at most 255 for a `t` of magnitude at most 1. -/
theorem floorF_scaled_le {t : F64} (h : encoding t ≤ powEncoding 0) (d : Nat) : floorF (fmul t f255 d).1 ≤ 255 := by
  have ht : finite t = true := finite_of_encoding_le h (by decide)
  have hone : units (encoding t) ≤ 1 <<< 1074 := (units_le_of_encoding_le h).trans_eq (Nat.one_mul _)
  have henc : roundBits (units (encoding t) * units (encoding f255)) (1 <<< 1074) ≤ encoding f255 :=
    roundBits_le_of_le (one_shiftLeft_pos _) ((Nat.mul_le_mul_right _ hone).trans_eq (Nat.mul_comm ..))
  rw [fmul_of_finite ht finite_f255, floorF]
  split
  case h_2 => omega
  case h_1 a hv =>
    obtain ⟨-, -, rfl⟩ := (fval_eq_fin_iff ..).1 hv
    rw [encoding_fround, Nat.shiftRight_eq_div_pow]
    calc _ ≤ units (encoding f255) / 2 ^ 1074 := Nat.div_le_div_right (units_strictMono.monotone henc)
      _ = 255 := by decide +kernel

/-- Where a dB value lies in the display range, before the clamps; 0 for a range without width. -/
def rangePosition (c : Ctx) (db : F64) : Draw F64 :=
  if flt c.dbMin c.dbMax then do
    let num ← fsub db c.dbMin
    let den ← fsub c.dbMax c.dbMin
    fdiv num den
  else pure fZero

/-- The index is the floor of 255 times the clamped position. -/
theorem pixelIndex_eq (c : Ctx) (db : F64) (d : Nat) :
    pixelIndex c db d =
      let t := rangePosition c db d
      let u := fmul (clampUnit t.1) f255 t.2
      (floorF u.1, u.2) := by
  cases h : flt c.dbMin c.dbMax <;> simp [pixelIndex, rangePosition, clampUnit, h, -bind_pure_comp]

theorem rangePosition_of_not_flt {c : Ctx} (h : flt c.dbMin c.dbMax = false) (db : F64) (d : Nat) :
    rangePosition c db d = (fZero, d) := by
  simp [rangePosition, h]

/-- Settles O56: whatever the position, the clamps put it into [0, 1]. -/
theorem paletteIndexIsInRange : Obligations.PaletteIndexIsInRange := by
  unfold Obligations.PaletteIndexIsInRange
  intro c db d
  rw [pixelIndex_eq]
  refine ⟨floorF_scaled_le (encoding_clampUnit_le _) _, fun h => ?_⟩
  have hmul : mulResult fZero f255 = some fZero := by decide +kernel
  have hfloor : floorF fZero = 0 := by decide
  rw [rangePosition_of_not_flt h]
  simp only [clampUnit_fZero, fmul, hmul, orNaN_some, hfloor]

/-! ### Window entries (R302, R303) -/

theorem encoding_float_le {k p : Nat} (h : k ≤ 2 ^ p) : encoding (float k) ≤ powEncoding p := by
  rw [float, encoding_fround]
  refine roundBits_le_powEncoding Nat.one_pos ?_
  rw [Nat.mul_one, shiftLeft_eq_mul_one_shiftLeft k]
  exact Nat.mul_le_mul_right _ h

theorem le_encoding_float {k : Nat} (h : 1 ≤ k) : powEncoding 0 ≤ encoding (float k) := by
  rw [float, encoding_fround]
  refine le_roundBits_of_le Nat.one_pos (by decide) ?_
  rw [units_powEncoding, Nat.mul_one, shiftLeft_eq_mul_one_shiftLeft k]
  exact Nat.mul_le_mul_right _ h

/-- A product of values of at most `2^p` and `2^q` is at most `2^(p+q)`. -/
theorem encoding_fmul_le {x y : F64} {p q : Nat} (hx : encoding x ≤ powEncoding p) (hy : encoding y ≤ powEncoding q)
    (hp : p ≤ 1023) (hq : q ≤ 1023) :
    ∃ z, (∀ d, fmul x y d = (z, d)) ∧ encoding z ≤ powEncoding (p + q) := by
  refine ⟨_, fmul_of_finite (finite_of_encoding_le hx hp) (finite_of_encoding_le hy hq), ?_⟩
  rw [encoding_fround]
  refine roundBits_le_powEncoding (one_shiftLeft_pos _) ?_
  calc units (encoding x) * units (encoding y)
      ≤ 2 ^ p * (1 <<< 1074) * (2 ^ q * (1 <<< 1074)) :=
        Nat.mul_le_mul (units_le_of_encoding_le hx) (units_le_of_encoding_le hy)
    _ = 2 ^ (p + q) * (1 <<< 1074) * (1 <<< 1074) := by rw [Nat.pow_add]; ac_rfl

/-- A value of at most `2^p` over one of at least 1 is at most `2^p`. -/
theorem encoding_fdiv_le {x y : F64} {p : Nat} (hx : encoding x ≤ powEncoding p) (hp : p ≤ 1023)
    (hy : finite y = true) (hone : powEncoding 0 ≤ encoding y) :
    ∃ z, (∀ d, fdiv x y d = (z, d)) ∧ encoding z ≤ powEncoding p := by
  have hunits : 1 <<< 1074 ≤ units (encoding y) := by
    simpa only [units_powEncoding, Nat.pow_zero, Nat.one_mul] using units_strictMono.monotone hone
  have hpos : 0 < units (encoding y) := (one_shiftLeft_pos _).trans_le hunits
  have hne : encoding y ≠ 0 := fun h => hpos.ne' ((units_zero_iff _).2 h)
  refine ⟨_, fdiv_of_finite (finite_of_encoding_le hx hp) hy hne, ?_⟩
  rw [encoding_fround]
  refine roundBits_le_powEncoding hpos ?_
  rw [shiftLeft_eq_mul_one_shiftLeft (units _)]
  exact Nat.mul_le_mul (units_le_of_encoding_le hx) hunits

/-- Running a sequence whose first part's result is known. -/
theorem bind_of_eq {α β : Type} {x : Draw α} {f : α → Draw β} {d e : Nat} {z : α} (h : x d = (z, e)) :
    (x >>= f) d = f z e := by
  rw [draw_bind, h]

/-- The sizes of a transform that a legal build has (R10). -/
theorem fftN_bounds (b : Build) : 4 ≤ b.fftN ∧ b.fftN ≤ 2 ^ 16 := by
  have hlegal := b.legal
  simp only [Params.legal, decide_eq_true_eq] at hlegal
  obtain ⟨hlo, hhi, -⟩ := hlegal
  exact ⟨Nat.pow_le_pow_right Nat.two_pos hlo, Nat.pow_le_pow_right Nat.two_pos hhi⟩

/-- The angle of an entry is finite: at most `2π k`, with `k` below the size of the transform. -/
theorem windowAngle_draws_nothing (b : Build) {k : Nat} (hk : k < b.fftN) :
    ∃ a, (∀ d, windowAngle b k d = (a, d)) ∧ finite a = true := by
  obtain ⟨hlo, hhi⟩ := fftN_bounds b
  have htwoPi : encoding fTwoPi ≤ powEncoding 3 := by decide
  have hsize : encoding (float (b.fftN - 1)) ≤ powEncoding 16 := encoding_float_le (by omega)
  obtain ⟨p, hmul, hp⟩ :=
    encoding_fmul_le htwoPi (encoding_float_le (hk.le.trans hhi)) (by decide) (by decide)
  obtain ⟨a, hdiv, ha⟩ :=
    encoding_fdiv_le hp (by decide) (finite_of_encoding_le hsize (by decide)) (le_encoding_float (by omega))
  exact ⟨a, fun d => by rw [windowAngle, bind_of_eq (hmul d), hdiv], finite_of_encoding_le ha (by decide)⟩

/-- An entry `a0 - a1 * COS64(ang_k)` draws nothing: its angle is finite, its cosine lies in [-1, 1], and
neither a product of finite values nor a finite value minus such a product is a NaN. -/
theorem raisedCosine_draws_nothing {a0 a1 : F64} (h0 : finite a0 = true) (h1 : finite a1 = true) (b : Build) {k : Nat}
    (hk : k < b.fftN) : ∃ w, ∀ d, raisedCosine a0 a1 b k d = (w, d) := by
  obtain ⟨a, hangle, ha⟩ := windowAngle_draws_nothing b hk
  obtain ⟨c, hcos, hlo, hhi⟩ := cos64_of_finite ha
  obtain ⟨p, hmul, hp⟩ := fmul_draws_nothing h1 (finite_of_fle_one hlo hhi)
  obtain ⟨w, hsub⟩ := fsub_of_finite h0 hp
  exact ⟨w, fun d => by
    rw [raisedCosine, bind_of_eq (hangle d), bind_of_eq (hcos d), bind_of_eq (hmul d), hsub]⟩

/-! `hann` and `hamming` are unfolded as functions, so that the kernel compares the bodies and does not run them. -/

theorem hann_eq_fun : hann = fun b k => (raisedCosine f0p5 f0p5 b k 0).1 := rfl

theorem hamming_eq_fun : hamming = fun b k => (raisedCosine f0p54 f0p46 b k 0).1 := rfl

theorem hann_eq (b : Build) (k : Nat) : hann b k = (raisedCosine f0p5 f0p5 b k 0).1 :=
  congrFun (congrFun hann_eq_fun b) k

theorem hamming_eq (b : Build) (k : Nat) : hamming b k = (raisedCosine f0p54 f0p46 b k 0).1 :=
  congrFun (congrFun hamming_eq_fun b) k

/-- Settles O18: an entry that draws nothing is the one that starts from draw number 0. -/
theorem windowEntriesDrawNothing : Obligations.WindowEntriesDrawNothing := by
  unfold Obligations.WindowEntriesDrawNothing
  intro b k d hk
  obtain ⟨h, hhann⟩ := raisedCosine_draws_nothing (a0 := f0p5) (a1 := f0p5) (by decide) (by decide) b hk
  obtain ⟨m, hhamming⟩ := raisedCosine_draws_nothing (a0 := f0p54) (a1 := f0p46) (by decide) (by decide) b hk
  rw [hann_eq, hamming_eq, hhann, hhann, hhamming, hhamming]
  exact ⟨rfl, rfl⟩

end Sys2Proof.Machine
end

section
/-! PROOF. What a block of `ChainBlock` keeps of the DSP state and how many outputs it can give, the
context that an issue latches, and with them the invariant of the block over one step. -/

namespace Sys2Proof.Machine

/-! ### What a block keeps -/

/-- From `l` to `l'` the loop of R400 has taken `n` samples: at most `n` outputs more, the WFM count still
below `D`, and the rates of the DSP state as they were. -/
structure Loop.Advances (k : Coeffs) (n : Nat) (l l' : Loop) : Prop where
  outs : l'.outs.length ≤ l.outs.length + n
  wcnt : l.dsp.wcnt < k.decim → l'.dsp.wcnt < k.decim
  curIn : l'.dsp.curIn = l.dsp.curIn
  curOut : l'.dsp.curOut = l.dsp.curOut

theorem Loop.Advances.refl (k : Coeffs) (l : Loop) : l.Advances k 0 l := ⟨Nat.le_refl _, id, rfl, rfl⟩

theorem Loop.Advances.trans {k : Coeffs} {n m : Nat} {l l' l'' : Loop} (h : l.Advances k n l')
    (h' : l'.Advances k m l'') : l.Advances k (n + m) l'' where
  outs := by have := h.outs; have := h'.outs; omega
  wcnt := h'.wcnt ∘ h.wcnt
  curIn := h'.curIn.trans h.curIn
  curOut := h'.curOut.trans h.curOut

/-- The non-WFM demodulators change `prev`, `dcAm` and `post` alone (R375 to R378, R390). -/
theorem demodAveraged_dsp (c : Ctx) (k : Coeffs) (dsp : Dsp) (avg : Cplx) (d : Nat) :
    ∃ prev dcAm post, (demodAveraged c k dsp avg d).1.1 = { dsp with prev := prev, dcAm := dcAm, post := post } := by
  unfold demodAveraged
  cases c.mode <;> exact ⟨_, _, _, rfl⟩

/-- The WFM output changes `dcWfm` alone (R383). -/
theorem wfmOut_dsp (c : Ctx) (dsp : Dsp) (v : F64) (d : Nat) :
    ∃ dc, (wfmOut c dsp v d).1.1 = { dsp with dcWfm := dc } := ⟨_, rfl⟩

theorem averagedSample_advances (c : Ctx) (k : Coeffs) (l : Loop) (d : Nat) :
    l.Advances k 1 (averagedSample c k l d).1 := by
  obtain ⟨_, acc, d', e⟩ | ⟨_, avg, d', e⟩ := averagedSample_cases c k l d
  · rw [e]
    exact ⟨Nat.le_succ _, id, rfl, rfl⟩
  · obtain ⟨prev, dcAm, post, hdsp⟩ := demodAveraged_dsp c k l.dsp avg d'
    rw [e, hdsp]
    exact ⟨Nat.le_refl _, id, rfl, rfl⟩

theorem wfmSample_advances (c : Ctx) (k : Coeffs) (l : Loop) (d : Nat) :
    l.Advances k 1 (wfmSample c k l d).1 := by
  obtain ⟨de, wacc, ⟨hne, d', e⟩ | ⟨heq, v, d', e⟩⟩ := wfmSample_cases c k l d
  · rw [e]
    exact ⟨Nat.le_succ _, fun (h : l.dsp.wcnt < k.decim) => show l.dsp.wcnt + 1 < k.decim by omega, rfl, rfl⟩
  · obtain ⟨dc, hdsp⟩ :=
      wfmOut_dsp c { l.dsp with prev := l.dsp.ch, de := de, wacc := wacc, wcnt := l.dsp.wcnt + 1 } v d'
    rw [e]
    simp only [hdsp]
    exact ⟨Nat.le_refl _, fun _ => show 0 < k.decim by omega, rfl, rfl⟩

theorem chainSample_advances (c : Ctx) (k : Coeffs) (i : Nat) (x : Cplx) (l : Loop) (d : Nat) :
    l.Advances k 1 (chainSample c k i x l d).1 := by
  obtain ⟨ch, d', ⟨_, e⟩ | ⟨_, e⟩⟩ := chainSample_cases c k i x l d <;> rw [e]
  · exact { wfmSample_advances c k { l with dsp := { l.dsp with ch := ch } } d' with }
  · exact { averagedSample_advances c k { l with dsp := { l.dsp with ch := ch } } d' with }

theorem chainLoop_advances (c : Ctx) (k : Coeffs) (xs : List Cplx) :
    ∀ (i : Nat) (l : Loop) (d : Nat), l.Advances k xs.length (chainLoop c k i xs l d).1 := by
  induction xs with
  | nil => exact fun i l d => .refl k l
  | cons x xs ih =>
    intro i l d
    rw [chainLoop_cons, List.length_cons, Nat.add_comm]
    exact (chainSample_advances c k i x l d).trans (ih _ _ _)

@[simp] theorem coeffs_decim (c : Ctx) (d : Nat) : (coeffs c d).1.decim = decimation c.inRate c.outRate := rfl

/-- A block starts from its DSP state, but for the WFM group, which can be a new one (R385). -/
theorem blockStart_cases (b : Build) (c : Ctx) (dsp : Dsp) :
    blockStart b c dsp = dsp ∨ blockStart b c dsp = { dsp with wacc := fZero, wcnt := 0 } := by
  unfold blockStart
  split
  · exact .inr rfl
  · exact .inl rfl

/-- The loop of R400 before the first sample. -/
def loopStart (b : Build) (c : Ctx) (dsp : Dsp) : Loop :=
  { dsp := blockStart b c dsp, acc := cZero, cnt := 0, outs := [] }

/-- A block is the loop over its samples, the phase advance apart (R400). -/
theorem chainBlock_eq (b : Build) (c : Ctx) (dsp : Dsp) (xs : List Cplx) (d : Nat) :
    ∃ phi, (chainBlock b c dsp xs d).1 =
      let l := (chainLoop c (coeffs c d).1 0 xs (loopStart b c dsp) (coeffs c d).2).1
      ({ l.dsp with phi := phi }, l.outs.reverse) := ⟨_, rfl⟩

/-- A block gives at most one output a sample (R44). -/
theorem chainBlock_outs_le (b : Build) (c : Ctx) (dsp : Dsp) (xs : List Cplx) (d : Nat) :
    (chainBlock b c dsp xs d).1.2.length ≤ xs.length := by
  obtain ⟨phi, e⟩ := chainBlock_eq b c dsp xs d
  rw [e, List.length_reverse]
  simpa [loopStart] using (chainLoop_advances c (coeffs c d).1 xs 0 (loopStart b c dsp) (coeffs c d).2).outs

/-- A block run with the rates its DSP state was built for keeps the WFM count below `D` (R382). -/
theorem chainBlock_wcnt_lt (b : Build) (c : Ctx) (dsp : Dsp) (xs : List Cplx) (d : Nat)
    (hin : dsp.curIn = c.inRate) (hout : dsp.curOut = c.outRate) (hw : dsp.wcnt < decimation dsp.curIn dsp.curOut) :
    (chainBlock b c dsp xs d).1.1.wcnt <
      decimation (chainBlock b c dsp xs d).1.1.curIn (chainBlock b c dsp xs d).1.1.curOut := by
  have hstart : (loopStart b c dsp).dsp.wcnt < (coeffs c d).1.decim ∧
      (loopStart b c dsp).dsp.curIn = c.inRate ∧ (loopStart b c dsp).dsp.curOut = c.outRate := by
    rw [hin, hout] at hw
    obtain e | e := blockStart_cases b c dsp <;> simp only [loopStart, e, coeffs_decim]
    · exact ⟨hw, hin, hout⟩
    · exact ⟨by omega, hin, hout⟩
  obtain ⟨hlt, hcin, hcout⟩ := hstart
  obtain ⟨phi, e⟩ := chainBlock_eq b c dsp xs d
  have hadv := chainLoop_advances c (coeffs c d).1 xs 0 (loopStart b c dsp) (coeffs c d).2
  rw [e]
  simpa only [hadv.curIn, hadv.curOut, hcin, hcout, coeffs_decim] using hadv.wcnt hlt

/-! ### What an issue latches -/

theorem getLsbD_of_extractLsb'_eq_zero {w : Word} {start len i : Nat} (h : w.extractLsb' start len = 0#len)
    (hlo : start ≤ i) (hhi : i < start + len) : w.getLsbD i = false := by
  have hbit : (w.extractLsb' start len).getLsbD (i - start) = false := by rw [h, BitVec.getLsbD_zero]
  simpa [BitVec.getLsbD_extractLsb', show i - start < len by omega, show start + (i - start) = i by omega] using hbit

/-- The word of a latched context is the command word without bits [63:32] and [11:6]. -/
theorem ctxWord_latch (v : Word) (s : State) : ctxWord (latch v s) = v &&& 0xFFFFF03F#64 := by
  apply BitVec.eq_of_getLsbD_eq
  intro i hi
  simp only [ctxWord, latch, BitVec.getLsbD_or, BitVec.getLsbD_and, BitVec.getLsbD_shiftLeft, BitVec.getLsbD_setWidth,
    BitVec.getLsbD_extractLsb']
  interval_cases i <;> simp

theorem extractLsb'_eq_zero_of_le {v : Word} {start len start' len' : Nat} (h : v.extractLsb' start len = 0#len)
    (hlo : start ≤ start') (hhi : start' + len' ≤ start + len) : v.extractLsb' start' len' = 0#len' := by
  apply BitVec.eq_of_getLsbD_eq
  intro i hi
  rw [BitVec.getLsbD_extractLsb', BitVec.getLsbD_zero,
    getLsbD_of_extractLsb'_eq_zero h (i := start' + i) (by omega) (by omega), Bool.and_false]

theorem reserved_of_decodeBare {v : Word} {i j : Instr} (h : decodeBare v i = .ok j) : v.extractLsb' 4 60 = 0#60 := by
  unfold decodeBare at h
  split at h
  · assumption
  · cases h

theorem reserved_of_decodeProcess {v : Word} {i : Instr} (h : decodeProcess v = .ok i) :
    v.extractLsb' 32 32 = 0#32 ∧ v.extractLsb' 5 7 = 0#7 := by
  unfold decodeProcess at h
  split at h
  · assumption
  · cases h

theorem reserved_of_decodeWingen {v : Word} {i : Instr} (h : decodeWingen v = .ok i) : v.extractLsb' 6 58 = 0#58 := by
  unfold decodeWingen at h
  split at h
  · assumption
  · cases h

/-- A word that decodes has no bit of [63:32] and [11:6], reserved in every format (R152 to R154). -/
theorem reserved_of_decode {v : Word} {i : Instr} (h : decode v = .ok i) :
    v.extractLsb' 32 32 = 0#32 ∧ v.extractLsb' 6 6 = 0#6 := by
  have bare {j} (h : decodeBare v j = .ok i) : v.extractLsb' 32 32 = 0#32 ∧ v.extractLsb' 6 6 = 0#6 :=
    ⟨extractLsb'_eq_zero_of_le (reserved_of_decodeBare h) (by omega) (by omega),
      extractLsb'_eq_zero_of_le (reserved_of_decodeBare h) (by omega) (by omega)⟩
  unfold decode at h
  split at h
  case h_1 | h_3 | h_4 | h_5 => exact bare h
  case h_2 =>
    obtain ⟨hhi, hmid⟩ := reserved_of_decodeProcess h
    exact ⟨hhi, extractLsb'_eq_zero_of_le hmid (by omega) (by omega)⟩
  case h_6 =>
    have hhi := reserved_of_decodeWingen h
    exact ⟨extractLsb'_eq_zero_of_le hhi (by omega) (by omega), extractLsb'_eq_zero_of_le hhi (by omega) (by omega)⟩
  case h_7 => cases h

/-- The context latched for an accepted word stands for that word (R61, R450). -/
theorem ctxWord_latch_of_decode {v : Word} {i : Instr} (h : decode v = .ok i) (s : State) : ctxWord (latch v s) = v := by
  obtain ⟨hhi, hmid⟩ := reserved_of_decode h
  rw [ctxWord_latch]
  apply BitVec.eq_of_getLsbD_eq
  intro j hj
  rw [BitVec.getLsbD_and]
  by_cases hres : 32 ≤ j ∨ (6 ≤ j ∧ j < 12)
  · have hbit : v.getLsbD j = false := by
      obtain h32 | ⟨h6, h12⟩ := hres
      · exact getLsbD_of_extractLsb'_eq_zero hhi h32 hj
      · exact getLsbD_of_extractLsb'_eq_zero hmid h6 h12
    rw [hbit, Bool.false_and]
  · have hmask : ∀ j < 64, ¬ (32 ≤ j ∨ (6 ≤ j ∧ j < 12)) → (0xFFFFF03F#64).getLsbD j = true := by decide
    rw [hmask j hj hres, Bool.and_true]

theorem fetch_latch {v : Word} {i : Instr} (h : decode v = .ok i) (s : State) : fetch (latch v s) = .ok i := by
  rw [fetch, ctxWord_latch_of_decode h, h]

/-! ### The operations keep the invariant -/

theorem withTurns_inv (ts : List Turn) {s : State} (h : s.Inv) : (s.withTurns ts).Inv := { h with }

theorem draw_inv {s : State} (h : s.Inv) : s.draw.2.Inv := { h with }

theorem clearFlags_inv (v : Word) {s : State} (h : s.Inv) : (clearFlags v s).Inv := { h with }

theorem legalErrCode_cmdErrCode (e : CmdErr) : legalErrCode (cmdErrCode e) = true := by cases e <;> rfl

theorem legalErrCode_busErrCode (e : BusErr) : legalErrCode (busErrCode e) = true := by cases e <;> rfl

theorem cmdError_inv (e : CmdErr) {s : State} (h : s.Inv) : (cmdError e s).Inv :=
  { h with errCode := legalErrCode_cmdErrCode e }

theorem busError_inv (e : BusErr) (off : Offset) {s : State} (h : s.Inv) : (busError e off s).Inv :=
  { h with errCode := legalErrCode_busErrCode e }

theorem complete_inv {s : State} (h : s.Inv) : (complete s).Inv := { h with seq := trivial }

theorem finishProcess_inv {n m : Nat} {s : State} (h : s.Inv) (hn : n ≤ s.build.maxBlock) (hm : m ≤ n) :
    (finishProcess n m s).Inv := { h with lastN := hn, lastM := hm, seq := trivial }

theorem loadWindow_inv (w : Build → Nat → F64) {s : State} (h : s.Inv) : (loadWindow w s).Inv :=
  { h with mem := writeWords_wf _ _ _ _ h.mem }

theorem publish_inv (line : List F64) (row : List Word) {s : State} (h : s.Inv) : (publish line row s).Inv :=
  { h with mem := writeWords_wf _ _ _ _ (writeWords_wf _ _ _ _ h.mem) }

/-- The state with one entry of the LUT memory stored (R65). -/
def State.storeWord (s : State) (a : Nat) (v : Word) : State := { s with mem := writeWord s.build s.mem a v }

theorem storeWord_inv (a : Nat) (v : Word) {s : State} (h : s.Inv) : (s.storeWord a v).Inv :=
  { h with mem := writeWord_wf _ _ _ _ h.mem }

theorem iqPush_inv (x : Cplx) {s : State} (h : s.Inv) : (iqPush x s).Inv := by
  have hq := h.iqf
  have hslots := (build_range s.build).2.2.1
  obtain ⟨hlen, e⟩ | ⟨hlen, e⟩ := iqPush_cases x s <;> rw [e]
  · exact { h with iqf := by simp; omega }
  · exact { h with iqf := by simp; omega }

theorem audPush_inv (v : F64) {s : State} (h : s.Inv) : (audPush v s).Inv := by
  have hq := h.audf
  have hslots := build_range s.build
  obtain ⟨hlen, e⟩ | ⟨hlen, e⟩ := audPush_cases v s <;> rw [e]
  · exact { h with audf := by simp; omega }
  · exact { h with audf := by simp; omega }

theorem audPop_inv {s : State} (h : s.Inv) : (audPop s).2.Inv := by
  obtain ⟨_, e⟩ | ⟨v, q, hq, e⟩ := audPop_cases s <;> rw [e]
  · exact { h with }
  · have hlen := h.audf
    rw [hq, List.length_cons] at hlen
    exact { h with audf := show q.length ≤ s.build.cAud - 1 by omega }

/-- A fresh DSP state has taken no sample of a group (R370). -/
theorem fresh_inv (rin rout : BitVec 32) {s : State} (h : s.Inv) : ({ s with dsp := fresh rin rout } : State).Inv :=
  { h with wcnt := decimation_pos rin rout }

theorem clearIq_inv {s : State} (h : s.Inv) : ({ s with iqf := [] } : State).Inv := { h with iqf := Nat.zero_le _ }

theorem clearAud_inv {s : State} (h : s.Inv) : ({ s with audf := [] } : State).Inv := { h with audf := Nat.zero_le _ }

theorem resetFor_inv (b : Build) : (State.resetFor b).Inv where
  mem := wf_nil b
  iqf := Nat.zero_le _
  audf := Nat.zero_le _
  lastN := Nat.zero_le _
  lastM := Nat.le_refl _
  errCode := rfl
  wcnt := decimation_pos _ _
  seq := trivial

theorem resetBlock_inv (s : State) : (resetBlock s).Inv := { resetFor_inv s.build with }

/-! ### The agents outside keep the invariant -/

/-- A rejected command is recorded, and an accepted one is latched, legal (R450). -/
theorem issue_inv (v : Word) {s : State} (h : s.Inv) : (issue v s).Inv := by
  have hrec : ({ s with lastCmd := v } : State).Inv := { h with }
  unfold issue
  obtain ⟨_, e⟩ | ⟨_, _, _, e⟩ | ⟨_, _, _, _, e⟩ | ⟨_, i, hdec, hwf, e⟩ := issueCheck_cases v { s with lastCmd := v } <;>
    simp only [e]
  case inr.inr.inr => exact { h with seq := ⟨i, fetch_latch hdec _, hwf⟩ }
  all_goals exact cmdError_inv _ hrec

theorem writeReg_inv (r : Reg) (v : Word) {s : State} (h : s.Inv) : (writeReg r v s).Inv := by
  cases r
  case cmd => exact issue_inv v h
  case status => exact clearFlags_inv v h
  case iqPushIm => exact iqPush_inv _ h
  case mode =>
    unfold writeReg
    cases modeOfCode (v.extractLsb' 0 3) <;> exact { h with }
  all_goals exact { h with }

theorem writeRegion_inv (g : Region) (v : Word) {s : State} (h : s.Inv) : (writeRegion g v s).Inv := by
  cases g with
  | reg r => exact writeReg_inv r v h
  | palette i => exact storeWord_inv _ _ h
  | winLut k => exact storeWord_inv _ _ h
  | spectrum k => exact h
  | wfRow k => exact h

theorem hostWrite_inv (off : Offset) (v : Word) {s : State} (h : s.Inv) : (hostWrite off v s).Inv := by
  obtain ⟨e, hw⟩ | ⟨g, _, _, _, hw⟩ := hostWrite_cases off v s <;> rw [hw]
  · exact busError_inv e off h
  · exact writeRegion_inv g v h

theorem readView_inv (w : Word) {s : State} (h : s.Inv) : (readView w s).2.Inv := by
  obtain ⟨_, e⟩ | ⟨_, e⟩ := readView_cases w s <;> rw [e]
  · exact draw_inv h
  · exact h

theorem readReg_inv (r : Reg) {s : State} (h : s.Inv) : (readReg r s).2.Inv := by
  cases r
  case audPop => exact audPop_inv h
  case decim | ncoPhase | curInRate | curOutRate => exact readView_inv _ h
  all_goals exact h

theorem readRegion_inv (g : Region) {s : State} (h : s.Inv) : (readRegion g s).2.Inv := by
  cases g with
  | reg r => exact readReg_inv r h
  | palette i => exact h
  | winLut k => exact h
  | spectrum k => exact h
  | wfRow k => exact h

theorem hostRead_inv (off : Offset) {s : State} (h : s.Inv) : (hostRead off s).2.Inv := by
  obtain ⟨_, e⟩ | ⟨_, _, e⟩ | ⟨_, g, _, e⟩ := hostRead_cases off s <;> rw [e]
  · exact busError_inv _ off h
  · exact busError_inv _ off h
  · exact readRegion_inv g h

theorem outsideStep_inv (e : Event) {s : State} (h : s.Inv) : (outsideStep e s).Inv := by
  cases e with
  | hostRead off => exact { hostRead_inv off h with }
  | hostWrite off v => exact hostWrite_inv off v h
  | prodPush x => exact iqPush_inv x h
  | consPop => exact { audPop_inv h with }
  | reset => exact resetBlock_inv s

/-! ### The engine keeps the invariant -/

/-- A rate change makes the DSP state fresh; either way it is then built for the latched rates, with the
WFM count below their `D` (R371, R382). -/
theorem freshOnRateChange_eq (c : Ctx) {s : State} (h : s.Inv) :
    ∃ dsp, freshOnRateChange c s = { s with dsp := dsp } ∧ dsp.curIn = c.inRate ∧ dsp.curOut = c.outRate ∧
      dsp.wcnt < decimation dsp.curIn dsp.curOut := by
  unfold freshOnRateChange
  split
  · rename_i hrate
    exact ⟨s.dsp, rfl, hrate.1.symm, hrate.2.symm, h.wcnt⟩
  · exact ⟨_, rfl, rfl, rfl, decimation_pos _ _⟩

/-- The chain on a legal block, from a DSP state built for the latched rates, gives a legal run (R461, R462). -/
theorem beginRun_inv {c : Ctx} {snap : Bool} {blk : List Cplx} {s : State} (h : s.Inv) (hin : s.dsp.curIn = c.inRate)
    (hout : s.dsp.curOut = c.outRate) (hpos : 1 ≤ blk.length) (hmax : blk.length ≤ s.build.maxBlock) :
    (beginRun c snap blk s).Inv :=
  { h with
    wcnt := chainBlock_wcnt_lt _ _ _ _ _ hin hout h.wcnt
    seq := ⟨Nat.zero_le _, chainBlock_outs_le _ _ _ _ _, hpos, hmax⟩ }

theorem dropIq_inv (k : Nat) {s : State} (h : s.Inv) : ({ s with iqf := s.iqf.drop k } : State).Inv :=
  { h with iqf := (s.iqf.drop_sublist k).length_le.trans h.iqf }

theorem startProcess_inv {n : BitVec 20} (snap : Bool) {s : State} (h : s.Inv) (hn : n.toNat ≤ s.build.maxBlock) :
    (startProcess n snap s).Inv := by
  obtain ⟨dsp, hdsp, hin, hout, hw⟩ := freshOnRateChange_eq (context s) h
  have hs : ({ s with dsp := dsp } : State).Inv := { h with wcnt := hw }
  obtain ⟨_, e⟩ | ⟨hpos, e⟩ := startProcess_cases n snap s <;> rw [e, hdsp]
  · exact finishProcess_inv hs (Nat.zero_le _) (Nat.le_refl _)
  · have hblk : 1 ≤ (s.iqf.take (min n.toNat s.iqf.length)).length ∧
        (s.iqf.take (min n.toNat s.iqf.length)).length ≤ s.build.maxBlock := by
      rw [List.length_take]
      omega
    exact beginRun_inv (dropIq_inv _ hs) hin hout hblk.1 hblk.2

/-- Every command that a build accepts keeps the invariant (R453). -/
theorem exec_inv {i : Instr} {s t : State} (h : s.Inv) (hi : i.wellFormed s.build = true) (ht : exec i s = .next t) :
    t.Inv := by
  cases i with
  | nop =>
    cases ht
    exact complete_inv h
  | process n snap =>
    cases ht
    exact startProcess_inv snap h (by simpa [Instr.wellFormed] using hi)
  | reinit =>
    cases ht
    exact complete_inv (fresh_inv _ _ h)
  | iqClear =>
    cases ht
    exact complete_inv (clearIq_inv h)
  | audClear =>
    cases ht
    exact complete_inv (clearAud_inv h)
  | wingenHann =>
    cases ht
    exact complete_inv (loadWindow_inv _ h)
  | wingenHamming =>
    cases ht
    exact complete_inv (loadWindow_inv _ h)

theorem pushNext_inv {r : Run} {s : State} (h : s.Inv) (hr : runLegal s.build r) (hlt : r.next < r.outs.length) :
    (pushNext r s).Inv :=
  audPush_inv _ { h with seq := ⟨hlt, hr.2⟩ }

theorem publishSnapshot_inv {r : Run} {s : State} (h : s.Inv) (hr : runLegal s.build r) : (publishSnapshot r s).Inv :=
  publish_inv _ _ { h with seq := hr }

theorem runStep_inv {r : Run} {s : State} (h : s.Inv) (hr : runLegal s.build r) : (runStep r s).Inv := by
  obtain ⟨_, _, e⟩ | ⟨hlt, s', rfl | rfl, e⟩ | ⟨_, s', rfl | rfl, e⟩ := runStep_cases r s <;> rw [e]
  · obtain ⟨_, houts, _, hmax⟩ := hr
    exact finishProcess_inv h hmax houts
  · exact pushNext_inv h hr hlt
  · exact pushNext_inv (draw_inv h) hr hlt
  · exact publishSnapshot_inv h hr
  · exact publishSnapshot_inv (draw_inv h) hr

theorem engineStep_inv {s t : State} (h : s.Inv) (ht : engineStep s = .next t) : t.Inv := by
  have hseq := h.seq
  obtain ⟨_, e⟩ | ⟨c, i, hs, hf, e⟩ | ⟨c, _, _, _, e⟩ | ⟨r, hs, e⟩ := engineStep_cases s <;> rw [e] at ht
  · cases ht
    exact h
  · rw [hs] at hseq
    obtain ⟨j, hfj, hwf⟩ := hseq
    obtain rfl : i = j := Except.ok.inj (hf.symm.trans hfj)
    exact exec_inv h hwf ht
  · cases ht
  · rw [hs] at hseq
    cases ht
    exact runStep_inv h hseq

/-- Settles O9: whosever turn it is, the step is made of operations that keep the invariant. -/
theorem everyStepKeepsTheInvariant : Obligations.EveryStepKeepsTheInvariant := by
  unfold Obligations.EveryStepKeepsTheInvariant
  intro s t h ht
  obtain ⟨_, e⟩ | ⟨ts, _, e⟩ | ⟨ev, ts, _, e⟩ := step_cases s <;> rw [e] at ht
  · exact engineStep_inv h ht
  · exact engineStep_inv (withTurns_inv ts h) ht
  · cases ht
    exact outsideStep_inv ev (withTurns_inv ts h)

end Sys2Proof.Machine
end

section
/-! PROOF. A command runs on its latched context: the live configuration registers reach no meaning (R61, R721). -/

namespace Sys2Proof.Machine

/-- The live configuration registers that an issue latches (R61). -/
structure LiveRegs where
  inRate : BitVec 32
  outRate : BitVec 32
  freqOffset : F64
  bandwidth : F64
  mode : Mode
  volume : F64
  mute : Bool
  deemphHz : F64
  audioLpfHz : F64
  dbMin : F64
  dbMax : F64

/-- The state with other live configuration registers. -/
def State.withLive (s : State) (l : LiveRegs) : State :=
  { s with
    inRate := l.inRate, outRate := l.outRate, freqOffset := l.freqOffset, bandwidth := l.bandwidth, mode := l.mode
    volume := l.volume, mute := l.mute, deemphHz := l.deemphHz, audioLpfHz := l.audioLpfHz, dbMin := l.dbMin
    dbMax := l.dbMax }

theorem withLive_iqf (s : State) (l : LiveRegs) : (s.withLive l).iqf = s.iqf := rfl

theorem context_of_pending {s : State} {c : Ctx} (h : s.seq = .pending c) : context s = c := by
  rw [context, h]

/-- The context of a pending command is latched, so no live register reaches it. -/
theorem context_withLive {s : State} {c : Ctx} (h : s.seq = .pending c) (l : LiveRegs) :
    context (s.withLive l) = context s := by
  have hlive : (s.withLive l).seq = .pending c := h
  rw [context_of_pending h, context_of_pending hlive]

theorem freshOnRateChange_withLive (c : Ctx) (s : State) (l : LiveRegs) :
    freshOnRateChange c (s.withLive l) = (freshOnRateChange c s).withLive l := by
  unfold freshOnRateChange
  exact (apply_ite (State.withLive · l) (c.inRate = s.dsp.curIn ∧ c.outRate = s.dsp.curOut) s
    { s with dsp := fresh c.inRate c.outRate }).symm

theorem beginRun_withLive (c : Ctx) (snap : Bool) (blk : List Cplx) (s : State) (l : LiveRegs) :
    beginRun c snap blk (s.withLive l) = (beginRun c snap blk s).withLive l := rfl

theorem finishProcess_withLive (n m : Nat) (s : State) (l : LiveRegs) :
    finishProcess n m (s.withLive l) = (finishProcess n m s).withLive l := rfl

theorem iqPopN_withLive (k : Nat) (s : State) (l : LiveRegs) :
    iqPopN k (s.withLive l) = ((iqPopN k s).1, (iqPopN k s).2.withLive l) := rfl

theorem startProcess_withLive {s : State} {c : Ctx} (h : s.seq = .pending c) (n : BitVec 20) (snap : Bool)
    (l : LiveRegs) : startProcess n snap (s.withLive l) = (startProcess n snap s).withLive l := by
  simp only [startProcess, context_withLive h, freshOnRateChange_withLive, withLive_iqf, iqPopN_withLive]
  split
  · exact finishProcess_withLive 0 0 _ l
  · exact beginRun_withLive _ snap _ _ l

/-- Every command goes to a next state, and on other live registers to the same one with those registers. -/
theorem exec_withLive (i : Instr) {s : State} {c : Ctx} (h : s.seq = .pending c) (l : LiveRegs) :
    ∃ t, exec i s = .next t ∧ exec i (s.withLive l) = .next (t.withLive l) := by
  cases i with
  | nop => exact ⟨_, rfl, rfl⟩
  | process n snap => exact ⟨_, rfl, congrArg _ (startProcess_withLive h n snap l)⟩
  | reinit =>
    refine ⟨_, rfl, ?_⟩
    show execReinit (s.withLive l) = _
    rw [execReinit, context_withLive h]
    rfl
  | iqClear => exact ⟨_, rfl, rfl⟩
  | audClear => exact ⟨_, rfl, rfl⟩
  | wingenHann => exact ⟨_, rfl, rfl⟩
  | wingenHamming => exact ⟨_, rfl, rfl⟩

/-- Settles O24: the eleven registers are one `LiveRegs`, and the context is latched. -/
theorem commandsIgnoreLiveRegisters : Obligations.CommandsIgnoreLiveRegisters := by
  unfold Obligations.CommandsIgnoreLiveRegisters
  intro i s c ra ro f bw vol de au lo hi m mu h
  exact exec_withLive i h
    { inRate := ra, outRate := ro, freqOffset := f, bandwidth := bw, mode := m, volume := vol, mute := mu
      deemphHz := de, audioLpfHz := au, dbMin := lo, dbMax := hi }

end Sys2Proof.Machine
end

section
/-! PROOF. The host bus: registers at their offsets, what they read back, and the LUT entries (R200 to R211). -/

namespace Sys2Proof.Machine

/-! ### Registers at their offsets -/

/-- The register `r` stands at the offset `off` (R32). -/
def Reg.isAt (r : Reg) (off : Offset) : Bool := off.toNat % 8 == 0 && registers[off.toNat / 8]? == some r

theorem Reg.isAt_iff (r : Reg) (off : Offset) :
    r.isAt off = true ↔ off.toNat % 8 = 0 ∧ registers[off.toNat / 8]? = some r := by
  simp [Reg.isAt]

theorem region_of_isAt {r : Reg} {off : Offset} (h : r.isAt off = true) (b : Build) : region b off = some (.reg r) := by
  simp [region, (r.isAt_iff off).mp h]

/-- A read at a mapped, aligned offset reads its region (R201). -/
theorem hostRead_of_region {off : Offset} {s : State} {g : Region} (ha : off.toNat % 8 = 0)
    (hg : region s.build off = some g) : hostRead off s = readRegion g s := by
  simp [hostRead, ha, hg]

/-- A write at a mapped, aligned offset that meets none of the errors writes its region (R202). -/
theorem hostWrite_of_region {off : Offset} {s : State} {g : Region} (ha : off.toNat % 8 = 0)
    (hg : region s.build off = some g) (hro : readOnly g = false) (hb : (hostLut g && s.busy) = false) (v : Word) :
    hostWrite off v s = writeRegion g v s := by
  simp [hostWrite, ha, hg, hro, hb]

/-- A read at a register's offset reads that register (R201). -/
theorem hostRead_of_isAt (r : Reg) {off : Offset} (h : r.isAt off = true) (s : State) :
    hostRead off s = readReg r s :=
  hostRead_of_region ((r.isAt_iff off).mp h).1 (region_of_isAt h s.build)

/-- A write at the offset of a writable register writes that register, busy or not (R202). -/
theorem hostWrite_of_isAt (r : Reg) {off : Offset} (h : r.isAt off = true) (hw : readOnly (.reg r) = false) (v : Word)
    (s : State) : hostWrite off v s = writeReg r v s :=
  hostWrite_of_region ((r.isAt_iff off).mp h).1 (region_of_isAt h s.build) hw rfl v

/-- Settles O37: each of these registers returns its element and leaves the state. -/
theorem readOnlyRegistersReturnTheirElements : Obligations.ReadOnlyRegistersReturnTheirElements := by
  unfold Obligations.ReadOnlyRegistersReturnTheirElements
  intro s
  exact ⟨hostRead_of_isAt .id rfl s, hostRead_of_isAt .fftSize rfl s, hostRead_of_isAt .iqDepth rfl s,
    hostRead_of_isAt .audDepth rfl s, hostRead_of_isAt .maxBlk rfl s, hostRead_of_isAt .cmd rfl s,
    hostRead_of_isAt .errAddr rfl s, hostRead_of_isAt .lastN rfl s, hostRead_of_isAt .lastM rfl s,
    hostRead_of_isAt .iqCount rfl s, hostRead_of_isAt .iqDrops rfl s, hostRead_of_isAt .iqPushRe rfl s,
    hostRead_of_isAt .iqPushIm rfl s, hostRead_of_isAt .audCount rfl s, hostRead_of_isAt .audDrops rfl s,
    hostRead_of_isAt .audUnderruns rfl s, hostRead_of_isAt .snapSeq rfl s⟩

theorem iqPush_pushRe (x : Cplx) (s : State) : (iqPush x s).pushRe = s.pushRe := by
  obtain ⟨_, e⟩ | ⟨_, e⟩ := iqPush_cases x s
  · rw [e, setFlag_pushRe]
  · rw [e]

/-- Settles O31: `IQ_PUSH_IM` pushes the pair of the latch and the value as the capture port does. -/
theorem hostPushUsesTheLatch : Obligations.HostPushUsesTheLatch := by
  unfold Obligations.HostPushUsesTheLatch
  intro s v
  have him : hostWrite 0x0C8#22 v s = iqPush ⟨s.pushRe, ⟨v⟩⟩ s := hostWrite_of_isAt .iqPushIm rfl rfl v s
  exact ⟨hostWrite_of_isAt .iqPushRe rfl rfl v s, him, him ▸ iqPush_pushRe _ s⟩

/-! ### `STATUS` (R40) -/

/-- Bits [7:1] of `STATUS` are the flags. -/
theorem status_flag (s : State) (f : Source) : s.status.getLsbD (sourceBit f) = s.flag f := by
  cases f <;> simp [State.status, State.flag, sourceBit]

theorem status_busy (s : State) : s.status.getLsbD 0 = s.busy := by
  simp [State.status]

theorem status_errCode (s : State) : s.status.extractLsb' 8 4 = s.errCode := by
  ext i hi
  simp [State.status, show 8 + i < 64 by omega, BitVec.getLsbD_eq_getElem hi]

theorem status_reserved (s : State) : s.status.extractLsb' 12 52 = 0#52 := by
  ext i hi
  simp [State.status, BitVec.getLsbD_of_ge s.errCode (12 + i - 8) (by omega),
    BitVec.getLsbD_of_ge s.flags (11 + i) (by omega)]

/-- Settles O40: the three fields of the word lie at their bits and the rest is 0. -/
theorem statusWordShowsItsFields : Obligations.StatusWordShowsItsFields := by
  unfold Obligations.StatusWordShowsItsFields
  intro s
  refine ⟨s.status, hostRead_of_isAt .status rfl s, ?_, status_flag s .done, status_flag s .wfDirty,
    status_flag s .iqOvf, status_flag s .audOvf, status_flag s .audUnf, status_flag s .cmdErr, status_flag s .busErr,
    status_errCode s, status_reserved s⟩
  rw [status_busy]
  exact busy_iff s

/-! ### The DSP views (R59) -/

theorem readView_of_idle {s : State} (h : s.seq = .idle) (w : Word) : readView w s = (w, s) := by
  rw [readView, busy_idle h]
  rfl

theorem readView_of_busy {s : State} (h : s.seq ≠ .idle) (w : Word) : readView w s = s.draw := by
  rw [readView, (busy_iff s).mpr h, if_pos rfl]

/-- Settles O38: each view register reads its value through `readView`. -/
theorem viewRegistersAreDrawnWhileBusy : Obligations.ViewRegistersAreDrawnWhileBusy := by
  unfold Obligations.ViewRegistersAreDrawnWhileBusy
  intro s
  have hdecim := hostRead_of_isAt .decim (off := 0x0F8#22) rfl s
  have hphase := hostRead_of_isAt .ncoPhase (off := 0x100#22) rfl s
  have hin := hostRead_of_isAt .curInRate (off := 0x108#22) rfl s
  have hout := hostRead_of_isAt .curOutRate (off := 0x110#22) rfl s
  constructor
  · intro h
    exact ⟨hdecim.trans (readView_of_idle h _), hphase.trans (readView_of_idle h _), hin.trans (readView_of_idle h _),
      hout.trans (readView_of_idle h _)⟩
  · intro h off hoff
    simp only [List.mem_cons, List.not_mem_nil, or_false] at hoff
    obtain rfl | rfl | rfl | rfl := hoff
    · exact hdecim.trans (readView_of_busy h _)
    · exact hphase.trans (readView_of_busy h _)
    · exact hin.trans (readView_of_busy h _)
    · exact hout.trans (readView_of_busy h _)

/-! ### Configuration registers (R38, R41, R45 to R54) -/

/-- A writable register that is written and then read gives what the write left in it. -/
theorem hostRead_hostWrite_of_isAt (r : Reg) {off : Offset} (h : r.isAt off = true) (hw : readOnly (.reg r) = false)
    (v : Word) (s : State) : hostRead off (hostWrite off v s) = readReg r (writeReg r v s) := by
  rw [hostWrite_of_isAt r h hw, hostRead_of_isAt r h]

/-- The low `n` bits of a word, zero-extended, are the word under the mask of those bits. -/
theorem setWidth_extractLsb'_zero (v : Word) (n : Nat) :
    (v.extractLsb' 0 n).setWidth 64 = v &&& (BitVec.allOnes n).setWidth 64 := by
  ext i hi
  simp [hi, Bool.and_comm]

theorem setWidth_ofBool_bit (v : Word) : (BitVec.ofBool (v.getLsbD 0)).setWidth 64 = v &&& 0x1#64 := by
  have hbit : BitVec.ofBool (v.getLsbD 0) = v.extractLsb' 0 1 := by
    ext i hi
    simp [show i = 0 by omega]
  rw [hbit, setWidth_extractLsb'_zero]
  rfl

/-- Bits [7:1], moved down for the register and up again for the read (R41). -/
theorem shiftLeft_extractLsb'_one (v : Word) : (v.extractLsb' 1 7).setWidth 64 <<< 1 = v &&& 0xFE#64 := by
  apply BitVec.eq_of_getLsbD_eq
  intro i hi
  simp only [BitVec.getLsbD_shiftLeft, BitVec.getLsbD_setWidth, BitVec.getLsbD_extractLsb', BitVec.getLsbD_and]
  interval_cases i <;> simp

/-- `MODE` keeps the three bits written when they name a mode, and ignores the write when they do not (R49). -/
theorem modeOfCode_cases : ∀ c : BitVec 3,
    (c.toNat ≤ 5 ∧ (modeOfCode c).map modeCode = some c) ∨ (5 < c.toNat ∧ modeOfCode c = none) := by
  decide

theorem writeReg_mode_cases (v : Word) (s : State) :
    ((v.extractLsb' 0 3).toNat ≤ 5 ∧ ∃ m, modeCode m = v.extractLsb' 0 3 ∧ writeReg .mode v s = { s with mode := m }) ∨
    (5 < (v.extractLsb' 0 3).toNat ∧ writeReg .mode v s = s) := by
  unfold writeReg
  obtain ⟨hle, hm⟩ | ⟨hlt, hm⟩ := modeOfCode_cases (v.extractLsb' 0 3)
  · obtain ⟨m, hcode, hmode⟩ := Option.map_eq_some_iff.mp hm
    exact .inl ⟨hle, m, hmode, by rw [hcode]⟩
  · exact .inr ⟨hlt, by rw [hm]⟩

/-- A write of `MODE` changes that register alone. -/
theorem writeReg_mode_frame (v : Word) (s : State) :
    writeReg .mode v s = { s with mode := (writeReg .mode v s).mode } := by
  obtain ⟨_, m, _, e⟩ | ⟨_, e⟩ := writeReg_mode_cases v s <;> rw [e]

/-- Settles O36: a write sets one field, and a read gives the field back, so only the masks are left to show. -/
theorem configurationWritesReadBack : Obligations.ConfigurationWritesReadBack := by
  unfold Obligations.ConfigurationWritesReadBack
  intro v s
  have wr {off : Offset} (r : Reg) (h : r.isAt off = true) (hw : readOnly (.reg r) = false) :=
    hostWrite_of_isAt r h hw v s
  have rd {off : Offset} (r : Reg) (h : r.isAt off = true) (hw : readOnly (.reg r) = false) :=
    congrArg Prod.fst (hostRead_hostWrite_of_isAt r h hw v s)
  have hmode : hostWrite 0x080#22 v s = writeReg .mode v s := wr .mode rfl rfl
  refine ⟨wr .ctrl rfl rfl, (rd .ctrl rfl rfl).trans (setWidth_ofBool_bit v),
    wr .irqEn rfl rfl, (rd .irqEn rfl rfl).trans (shiftLeft_extractLsb'_one v),
    wr .inRate rfl rfl, (rd .inRate rfl rfl).trans (setWidth_extractLsb'_zero v 32),
    wr .outRate rfl rfl, (rd .outRate rfl rfl).trans (setWidth_extractLsb'_zero v 32),
    wr .freqOffset rfl rfl, rd .freqOffset rfl rfl, wr .bandwidth rfl rfl, rd .bandwidth rfl rfl,
    wr .volume rfl rfl, rd .volume rfl rfl, wr .deemphHz rfl rfl, rd .deemphHz rfl rfl,
    wr .audioLpfHz rfl rfl, rd .audioLpfHz rfl rfl, wr .dbMin rfl rfl, rd .dbMin rfl rfl,
    wr .dbMax rfl rfl, rd .dbMax rfl rfl, ?frame, ?mode⟩
  case frame => exact hmode.symm ▸ writeReg_mode_frame v s
  case mode =>
    obtain ⟨hle, m, hm, e⟩ | ⟨hlt, e⟩ := writeReg_mode_cases v s
    · rw [if_pos hle, rd .mode rfl rfl, e]
      exact (congrArg (BitVec.setWidth 64) hm).trans (setWidth_extractLsb'_zero v 3)
    · rw [if_neg (by omega), hmode, e]

/-! ### LUT entries (R65, R101, R208) -/

/-- The offset of an entry names that entry (R101). -/
theorem lutIndex_entry {base n k : Nat} (hk : k < n) : lutIndex base n (base + 8 * k) = some k := by
  unfold lutIndex
  rw [if_pos (by omega)]
  congr 1
  omega

theorem lutIndex_above {base n a : Nat} (h : base + 8 * n ≤ a) : lutIndex base n a = none := if_neg (by omega)

theorem register_none {a : Nat} (h : 0x118 ≤ a) : registers[a / 8]? = none :=
  List.getElem?_eq_none (by show 35 ≤ a / 8; omega)

theorem region_palette (b : Build) {off : Offset} {i : Nat} (hi : i < 256) (ho : off.toNat = paletteBase + 8 * i) :
    region b off = some (.palette i) := by
  rw [region, ho, register_none (by rw [paletteBase]; omega), lutIndex_entry hi]
  rfl

theorem region_winLut (b : Build) {off : Offset} {k : Nat} (hk : k < b.fftN) (ho : off.toNat = winLutBase + 8 * k) :
    region b off = some (.winLut k) := by
  rw [region, ho, register_none (by rw [winLutBase]; omega),
    lutIndex_above (by rw [paletteBase, winLutBase]; omega), lutIndex_entry hk]
  rfl

/-- While busy a write at the offset of a host LUT's entry is refused (R208). -/
theorem hostWrite_of_busy {off : Offset} {s : State} {g : Region} (ha : off.toNat % 8 = 0)
    (hg : region s.build off = some g) (hro : readOnly g = false) (hl : hostLut g = true) (hb : s.busy = true)
    (v : Word) : hostWrite off v s = busError .lutBusy off s := by
  simp [hostWrite, ha, hg, hro, hl, hb]

theorem win_storeWord {s : State} (hm : Memory.wf s.build s.mem = true) (k : Nat) (v : Word) :
    ((s.storeWord (winLutBase + 8 * k) v).win k).bits = v := readWord_writeWord_same _ _ _ _ hm

theorem palette_storeWord {s : State} (hm : Memory.wf s.build s.mem = true) (i : Nat) (v : Word) :
    (s.storeWord (paletteBase + 8 * i) ((v.setWidth 32).setWidth 64)).palette i = v &&& 0xFFFFFFFF#64 := by
  show ((readWord s.build (writeWord s.build s.mem _ _) _).setWidth 32).setWidth 64 = _
  rw [readWord_writeWord_same _ _ _ _ hm]
  exact (congrArg _ (BitVec.setWidth_setWidth_of_le _ (by decide))).trans (setWidth_extractLsb'_zero v 32)

/-- Settles O35: a host LUT entry is stored while idle and read back through the same map, and refused while busy. -/
theorem lutWritesReadBackWhileIdle : Obligations.LutWritesReadBackWhileIdle := by
  unfold Obligations.LutWritesReadBackWhileIdle
  intro off v s hm
  refine ⟨?_, ?_, ?_⟩
  · rintro ⟨k, hk, ho⟩ hb
    have ha : off.toNat % 8 = 0 := by omega
    have hw : hostWrite off v s = s.storeWord (winLutBase + 8 * k) v :=
      hostWrite_of_region ha (region_winLut s.build hk ho) rfl hb v
    have hr := hostRead_of_region (s := s.storeWord (winLutBase + 8 * k) v) ha (region_winLut s.build hk ho)
    rw [hw]
    exact ⟨hr.trans (Prod.ext (win_storeWord hm k v) rfl), rfl,
      fun a h => readByte_writeWord_other s.build s.mem _ v (ho ▸ h)⟩
  · rintro ⟨i, hi, ho⟩ hb
    have ha : off.toNat % 8 = 0 := by omega
    have hw : hostWrite off v s = s.storeWord (paletteBase + 8 * i) ((v.setWidth 32).setWidth 64) :=
      hostWrite_of_region ha (region_palette s.build hi ho) rfl hb v
    have hr := hostRead_of_region (s := s.storeWord (paletteBase + 8 * i) ((v.setWidth 32).setWidth 64)) ha
      (region_palette s.build hi ho)
    rw [hw]
    exact ⟨hr.trans (Prod.ext (palette_storeWord hm i v) rfl), rfl,
      fun a h => readByte_writeWord_other s.build s.mem _ _ (ho ▸ h)⟩
  · rintro ⟨k, ⟨hk, ho⟩ | ⟨hk, ho⟩⟩ hb
    · exact hostWrite_of_busy (by omega) (region_winLut s.build hk ho) rfl rfl hb v
    · exact hostWrite_of_busy (by omega) (region_palette s.build hk ho) rfl rfl hb v

end Sys2Proof.Machine
end

section
/-! PROOF. The error record of a refused access (R106, R602, R608), what a read can change (R108), and what the
agents outside leave to a busy command (R117, R452, R609). -/

namespace Sys2Proof.Machine

/-! ### Bus errors (R602) -/

theorem busError_eq (e : BusErr) (off : Offset) (s : State) :
    busError e off s =
      { s with errCode := busErrCode e, errAddr := off.setWidth 64, flags := s.flags ||| 0b1000000#7 } := rfl

theorem hostRead_of_misaligned {off : Offset} (h : off.toNat % 8 ≠ 0) (s : State) :
    hostRead off s = (0#64, busError .align off s) := if_pos h

theorem hostWrite_of_misaligned {off : Offset} (h : off.toNat % 8 ≠ 0) (v : Word) (s : State) :
    hostWrite off v s = busError .align off s := if_pos h

/-- Settles O32: the alignment is the first check of both accesses. -/
theorem misalignedAccessIsRecordedFirst : Obligations.MisalignedAccessIsRecordedFirst := by
  unfold Obligations.MisalignedAccessIsRecordedFirst
  intro off v s h
  rw [hostRead_of_misaligned h, hostWrite_of_misaligned h, busError_eq]
  exact ⟨rfl, rfl⟩

theorem hostRead_of_unmapped {off : Offset} {s : State} (ha : off.toNat % 8 = 0) (hr : region s.build off = none) :
    hostRead off s = (0#64, busError .unmapped off s) := by
  simp [hostRead, ha, hr]

theorem hostWrite_of_unmapped {off : Offset} {s : State} (ha : off.toNat % 8 = 0) (hr : region s.build off = none)
    (v : Word) : hostWrite off v s = busError .unmapped off s := by
  simp [hostWrite, ha, hr]

/-- An offset above the registers and outside the four LUTs is unmapped (R101). -/
theorem region_none {b : Build} {off : Offset} (hreg : 0x118 ≤ off.toNat)
    (hpal : ¬ (paletteBase ≤ off.toNat ∧ off.toNat < paletteBase + 8 * 256))
    (hwin : ¬ (winLutBase ≤ off.toNat ∧ off.toNat < winLutBase + 8 * b.fftN))
    (hspec : ¬ (spectrumBase ≤ off.toNat ∧ off.toNat < spectrumBase + 8 * b.fftN))
    (hrow : ¬ (wfRowBase ≤ off.toNat ∧ off.toNat < wfRowBase + 8 * b.fftN)) : region b off = none := by
  simp [region, register_none hreg, lutIndex, hpal, hwin, hspec, hrow]

/-- Settles O33: such an offset names no region. -/
theorem unmappedAccessIsRecorded : Obligations.UnmappedAccessIsRecorded := by
  unfold Obligations.UnmappedAccessIsRecorded
  intro off v s ha hreg hpal hwin hspec hrow
  have hr : region s.build off = none := region_none hreg hpal hwin hspec hrow
  rw [hostRead_of_unmapped ha hr, hostWrite_of_unmapped ha hr, busError_eq]
  exact ⟨rfl, rfl⟩

/-! ### What a read can change (R108) -/

/-- Only an offset in the register block names a register (R101). -/
theorem register_of_region {b : Build} {off : Offset} {r : Reg} (h : region b off = some (.reg r)) :
    registers[off.toNat / 8]? = some r := by
  simpa [region, Option.or_eq_some_iff] using h

/-- Each register has one offset (R32). -/
theorem Reg.isAt_inj {r : Reg} {off off' : Offset} (h : r.isAt off = true) (h' : r.isAt off' = true) : off = off' := by
  obtain ⟨ha, hr⟩ := (r.isAt_iff off).mp h
  obtain ⟨ha', hr'⟩ := (r.isAt_iff off').mp h'
  obtain ⟨hlt, _⟩ := List.getElem?_eq_some_iff.mp hr
  have hi : off.toNat / 8 = off'.toNat / 8 := (List.getElem?_inj hlt (by decide)).mp (hr.trans hr'.symm)
  exact BitVec.eq_of_toNat_eq (by omega)

/-- `t` is `s` but for the model's own fields. -/
def State.SameBlock (s t : State) : Prop := t = { s with env := t.env }

theorem State.SameBlock.refl (s : State) : s.SameBlock s := rfl

theorem draw_sameBlock (s : State) : s.SameBlock s.draw.2 := rfl

theorem readView_sameBlock (w : Word) (s : State) : s.SameBlock (readView w s).2 := by
  obtain ⟨_, e⟩ | ⟨_, e⟩ := readView_cases w s <;> rw [e]
  · exact draw_sameBlock s
  · exact .refl s

/-- Only a read of `AUD_POP` changes the block; a view can draw (R59, R108). -/
theorem readReg_sameBlock {r : Reg} (h : r ≠ .audPop) (s : State) : s.SameBlock (readReg r s).2 := by
  cases r
  case audPop => exact absurd rfl h
  case decim | ncoPhase | curInRate | curOutRate => exact readView_sameBlock _ s
  all_goals exact .refl s

theorem readRegion_sameBlock {g : Region} (h : g ≠ .reg .audPop) (s : State) : s.SameBlock (readRegion g s).2 := by
  cases g with
  | reg r => exact readReg_sameBlock (fun hr => h (congrArg Region.reg hr)) s
  | palette i => exact .refl s
  | winLut k => exact .refl s
  | spectrum k => exact .refl s
  | wfRow k => exact .refl s

/-- Settles O39: the one region whose read changes the block is `AUD_POP`, which only the offset 0x0E8 names. -/
theorem readsHaveNoSideEffect : Obligations.ReadsHaveNoSideEffect := by
  unfold Obligations.ReadsHaveNoSideEffect
  intro off s g ha hg hoff
  have hpop : g ≠ .reg .audPop := by
    rintro rfl
    exact hoff (Reg.isAt_inj ((Reg.isAt_iff .audPop off).mpr ⟨ha, register_of_region hg⟩) rfl)
  rw [hostRead_of_region ha hg]
  exact readRegion_sameBlock hpop s

/-! ### What the agents outside leave to a busy command (R117, R452, R609) -/

/-- `t` has the command, the LUT memory and the DSP state of `s`. -/
def State.SameCommand (s t : State) : Prop := t.seq = s.seq ∧ t.mem = s.mem ∧ t.dsp = s.dsp

theorem State.SameCommand.refl (s : State) : s.SameCommand s := ⟨rfl, rfl, rfl⟩

theorem State.SameBlock.sameCommand {s t : State} (h : s.SameBlock t) : s.SameCommand t := by
  rw [State.SameBlock] at h
  rw [h]
  exact ⟨rfl, rfl, rfl⟩

theorem busError_sameCommand (e : BusErr) (off : Offset) (s : State) : s.SameCommand (busError e off s) :=
  ⟨rfl, rfl, rfl⟩

theorem iqPush_sameCommand (x : Cplx) (s : State) : s.SameCommand (iqPush x s) := by
  obtain ⟨_, e⟩ | ⟨_, e⟩ := iqPush_cases x s <;> rw [e] <;> exact ⟨rfl, rfl, rfl⟩

theorem audPop_sameCommand (s : State) : s.SameCommand (audPop s).2 := by
  obtain ⟨_, e⟩ | ⟨_, _, _, e⟩ := audPop_cases s <;> rw [e] <;> exact ⟨rfl, rfl, rfl⟩

theorem readRegion_sameCommand (g : Region) (s : State) : s.SameCommand (readRegion g s).2 := by
  by_cases h : g = .reg .audPop
  · rw [h]
    exact audPop_sameCommand s
  · exact (readRegion_sameBlock h s).sameCommand

theorem hostRead_sameCommand (off : Offset) (s : State) : s.SameCommand (hostRead off s).2 := by
  obtain ⟨_, e⟩ | ⟨_, _, e⟩ | ⟨_, g, _, e⟩ := hostRead_cases off s <;> rw [e]
  · exact busError_sameCommand _ off s
  · exact busError_sameCommand _ off s
  · exact readRegion_sameCommand g s

/-- While busy every `CMD` write is rejected (R451, R609). -/
theorem issue_of_busy {s : State} (hb : s.busy = true) (v : Word) :
    issue v s = cmdError .busy { s with lastCmd := v } := by
  have hc : issueCheck v { s with lastCmd := v } = some .busy := if_pos hb
  rw [issue, hc]

theorem writeReg_sameCommand {s : State} (hb : s.busy = true) (r : Reg) (v : Word) :
    s.SameCommand (writeReg r v s) := by
  cases r
  case cmd =>
    rw [writeReg, issue_of_busy hb]
    exact ⟨rfl, rfl, rfl⟩
  case iqPushIm => exact iqPush_sameCommand _ s
  case mode =>
    rw [writeReg_mode_frame]
    exact ⟨rfl, rfl, rfl⟩
  all_goals exact ⟨rfl, rfl, rfl⟩

/-- While busy the writes of the host LUTs do not get through (R208), and no other write reaches the command. -/
theorem writeRegion_sameCommand {s : State} (hb : s.busy = true) {g : Region} (hg : (hostLut g && s.busy) = false)
    (v : Word) : s.SameCommand (writeRegion g v s) := by
  have hlut : hostLut g = false := by rwa [hb, Bool.and_true] at hg
  cases g with
  | reg r => exact writeReg_sameCommand hb r v
  | palette i => cases hlut
  | winLut k => cases hlut
  | spectrum k => exact .refl s
  | wfRow k => exact .refl s

theorem hostWrite_sameCommand {s : State} (hb : s.busy = true) (off : Offset) (v : Word) :
    s.SameCommand (hostWrite off v s) := by
  obtain ⟨e, hw⟩ | ⟨g, _, _, hg, hw⟩ := hostWrite_cases off v s <;> rw [hw]
  · exact busError_sameCommand e off s
  · exact writeRegion_sameCommand hb hg v

/-- Settles O25: each agent's event is made of operations that keep a busy command. -/
theorem outsideStepsKeepTheCommandAndItsLuts : Obligations.OutsideStepsKeepTheCommandAndItsLuts := by
  unfold Obligations.OutsideStepsKeepTheCommandAndItsLuts
  intro e s hb hreset
  cases e with
  | hostRead off => exact hostRead_sameCommand off s
  | hostWrite off v => exact hostWrite_sameCommand hb off v
  | prodPush x => exact iqPush_sameCommand x s
  | consPop => exact audPop_sameCommand s
  | reset => exact absurd rfl hreset

end Sys2Proof.Machine
end

section
/-! PROOF. The engine's turns (R110, R453), and a running `PROCESS` that it alone runs to its end: the audio enters
its FIFO in output order (R112, R261, R464, R466). -/

namespace Sys2Proof.Machine

/-! ### The engine's turn -/

theorem engineStep_of_idle {s : State} (h : s.seq = .idle) : engineStep s = .next s := by
  rw [engineStep, h]

theorem engineStep_of_pending {s : State} {c : Ctx} {i : Instr} (h : s.seq = .pending c) (hf : fetch c = .ok i) :
    engineStep s = exec i s := by
  simp only [engineStep, h, hf]

theorem engineStep_of_running {s : State} {r : Run} (h : s.seq = .running r) : engineStep s = .next (runStep r s) := by
  rw [engineStep, h]

theorem step_of_no_turns {s : State} (h : s.env.turns = []) : step s = engineStep s := by
  rw [step, h]

theorem step_of_engine_turn {s : State} {ts : List Turn} (h : s.env.turns = .engine :: ts) :
    step s = engineStep (s.withTurns ts) := by
  rw [step, h]

/-- Settles O7: taking the turn leaves the sequencer, so the engine's step is that of its content. -/
theorem engineTurnRunsThePendingCommand : Obligations.EngineTurnRunsThePendingCommand := by
  unfold Obligations.EngineTurnRunsThePendingCommand
  refine ⟨fun s c i hs hf => ⟨fun ht => ?_, fun ts ht => ?_⟩, fun s hs => ⟨fun ht => ?_, fun ts ht => ?_⟩⟩
  · exact (step_of_no_turns ht).trans (engineStep_of_pending hs hf)
  · exact (step_of_engine_turn ht).trans (engineStep_of_pending (s := s.withTurns ts) hs hf)
  · exact (step_of_no_turns ht).trans (engineStep_of_idle hs)
  · exact (step_of_engine_turn ht).trans (engineStep_of_idle (s := s.withTurns ts) hs)

/-! ### A FIFO keeps the newest samples -/

/-- The newest `cap` samples of a sequence, oldest first. -/
def keepNewest {α : Type} (cap : Nat) (q : List α) : List α := q.drop (q.length - cap)

theorem keepNewest_of_length_le {α : Type} {cap : Nat} {q : List α} (h : q.length ≤ cap) :
    keepNewest cap q = q := by
  rw [keepNewest, Nat.sub_eq_zero_of_le h, List.drop_zero]

/-- Samples that were lost already would be lost in the end (R252). -/
theorem keepNewest_append {α : Type} (cap : Nat) (p q : List α) :
    keepNewest cap (keepNewest cap p ++ q) = keepNewest cap (p ++ q) := by
  have hsplit : keepNewest cap p ++ q = (p ++ q).drop (p.length - cap) :=
    (List.drop_append_of_le_length (Nat.sub_le _ _)).symm
  rw [hsplit, keepNewest, keepNewest, List.drop_drop, List.length_drop, List.length_append]
  congr 1
  omega

/-- A push keeps the newest samples that fit (R251, R261). -/
theorem fifoPush_eq_keepNewest {α : Type} {slots : Nat} (hs : 2 ≤ slots) {q : List α} (hq : q.length ≤ slots - 1)
    (x : α) : (fifoPush slots q x).1 = keepNewest (slots - 1) (q ++ [x]) := by
  obtain ⟨hlen, e⟩ | ⟨hlen, e⟩ := fifoPush_cases slots q x <;> rw [e]
  · have hone : (q ++ [x]).length - (slots - 1) = 1 := by simp; omega
    rw [keepNewest, hone, List.drop_append_of_le_length (by omega)]
  · rw [keepNewest_of_length_le (by simp; omega)]

/-! ### A push of audio (R261, R464) -/

theorem two_le_cAud (b : Build) : 2 ≤ b.cAud := by
  obtain ⟨_, _, _, _, h, _⟩ := build_range b
  exact h

theorem audPush_audf (v : F64) (s : State) : (audPush v s).audf = (fifoPush s.build.cAud s.audf v).1 := by
  simp only [audPush]
  split <;> rfl

theorem audPush_frame (v : F64) (s : State) :
    (audPush v s).build = s.build ∧ (audPush v s).seq = s.seq ∧ (audPush v s).env = s.env := by
  obtain ⟨_, e⟩ | ⟨_, e⟩ := audPush_cases v s <;> rw [e] <;> exact ⟨rfl, rfl, rfl⟩

theorem pushNext_audf (r : Run) (s : State) :
    (pushNext r s).audf = (fifoPush s.build.cAud s.audf (r.outs.getD r.next fZero)).1 := audPush_audf _ _

theorem pushNext_frame (r : Run) (s : State) :
    (pushNext r s).build = s.build ∧ (pushNext r s).seq = .running { r with next := r.next + 1 } ∧
      (pushNext r s).env = s.env := audPush_frame _ _

/-! ### The run steps (R464) -/

/-- The pushes and the publish that a run has still to take (R464). -/
def Run.actionsLeft (r : Run) : Nat := (r.outs.length - r.next) + r.snapPending.toNat

/-- The audio FIFO when all outputs of the run have been pushed: what it holds and then they, the newest that fit. -/
def State.audioAfter (s : State) (r : Run) : List F64 := keepNewest (s.build.cAud - 1) (s.audf ++ r.outs.drop r.next)

/-- The machine runs `r`, no other agent's turn is listed, and the audio FIFO is within its capacity (R267). -/
structure State.RunsAlone (s : State) (r : Run) : Prop where
  seq : s.seq = .running r
  turns : s.env.turns = []
  audf : s.audf.length ≤ s.build.cAud - 1

theorem draw_runsAlone {s : State} {r : Run} (h : s.RunsAlone r) : s.draw.2.RunsAlone r := { h with }

theorem pushNext_runsAlone {s : State} {r : Run} (h : s.RunsAlone r) :
    (pushNext r s).RunsAlone { r with next := r.next + 1 } := by
  obtain ⟨hbuild, hseq, henv⟩ := pushNext_frame r s
  refine ⟨hseq, henv ▸ h.turns, ?_⟩
  rw [pushNext_audf, hbuild]
  exact fifoPush_length (two_le_cAud s.build) h.audf _

theorem publishSnapshot_runsAlone {s : State} {r : Run} (h : s.RunsAlone r) :
    (publishSnapshot r s).RunsAlone { r with snapPending := false } := ⟨rfl, h.turns, h.audf⟩

theorem audioAfter_pushNext {s : State} {r : Run} (h : s.RunsAlone r) (hlt : r.next < r.outs.length) :
    (pushNext r s).audioAfter { r with next := r.next + 1 } = s.audioAfter r := by
  obtain ⟨hbuild, _, _⟩ := pushNext_frame r s
  have hnext : r.outs.drop r.next = [r.outs.getD r.next fZero] ++ r.outs.drop (r.next + 1) := by
    rw [List.drop_eq_getElem_cons hlt, List.getD_eq_getElem _ _ hlt]
    rfl
  rw [State.audioAfter, State.audioAfter, pushNext_audf, hbuild, fifoPush_eq_keepNewest (two_le_cAud _) h.audf,
    keepNewest_append, hnext, List.append_assoc]

theorem audioAfter_publishSnapshot (s : State) (r : Run) :
    (publishSnapshot r s).audioAfter { r with snapPending := false } = s.audioAfter r := rfl

theorem audioAfter_of_all_pushed {s : State} {r : Run} (h : s.RunsAlone r) (hall : r.outs.length ≤ r.next) :
    s.audioAfter r = s.audf := by
  rw [State.audioAfter, List.drop_eq_nil_of_le hall, List.append_nil, keepNewest_of_length_le h.audf]

theorem actionsLeft_pushNext {r : Run} (hlt : r.next < r.outs.length) :
    r.actionsLeft = Run.actionsLeft { r with next := r.next + 1 } + 1 := by
  simp only [Run.actionsLeft]
  omega

theorem actionsLeft_publishSnapshot {r : Run} (hp : r.snapPending = true) :
    r.actionsLeft = Run.actionsLeft { r with snapPending := false } + 1 := by
  simp [Run.actionsLeft, hp]

/-! ### The whole run -/

theorem run_succ {M : Host.Core} {k : Nat} {s s' : M.State} (h : M.step s = .next s') :
    M.run (k + 1) s = M.run k s' := by
  simp only [Host.Core.run, h]

theorem runsTo_succ {k : Nat} {s s' t : State} (h : step s = .next s') (ht : runsTo k s' t) : runsTo (k + 1) s t :=
  (run_succ (M := core) h).trans ht

theorem step_of_runsAlone {s : State} {r : Run} (h : s.RunsAlone r) : step s = .next (runStep r s) :=
  (step_of_no_turns h.turns).trans (engineStep_of_running h.seq)

/-- A run that the engine alone runs takes each action left and then completes, in whatever order the snapshot
and the pushes come (R464, R466). -/
theorem runsTo_finishProcess (r : Run) (s : State) (h : s.RunsAlone r) :
    ∃ t, runsTo (r.actionsLeft + 1) s (finishProcess r.blk.length r.outs.length t) ∧ t.audf = s.audioAfter r := by
  have hstep := step_of_runsAlone h
  have hdraw : ∀ s', s' = s ∨ s' = s.draw.2 → s'.RunsAlone r ∧ s'.audioAfter r = s.audioAfter r := by
    rintro s' (rfl | rfl)
    · exact ⟨h, rfl⟩
    · exact ⟨draw_runsAlone h, rfl⟩
  obtain ⟨hall, hp, e⟩ | ⟨hlt, s', hs', e⟩ | ⟨hp, s', hs', e⟩ := runStep_cases r s <;> rw [e] at hstep
  · have hnone : r.actionsLeft = 0 := by simp [Run.actionsLeft, hp, Nat.sub_eq_zero_of_le hall]
    rw [hnone]
    exact ⟨s, runsTo_succ hstep rfl, (audioAfter_of_all_pushed h hall).symm⟩
  · obtain ⟨h', ha⟩ := hdraw s' hs'
    have hless := actionsLeft_pushNext hlt
    obtain ⟨t, ht, haudf⟩ := runsTo_finishProcess _ _ (pushNext_runsAlone h')
    rw [hless]
    exact ⟨t, runsTo_succ hstep ht, haudf.trans ((audioAfter_pushNext h' hlt).trans ha)⟩
  · obtain ⟨h', ha⟩ := hdraw s' hs'
    have hless := actionsLeft_publishSnapshot hp
    obtain ⟨t, ht, haudf⟩ := runsTo_finishProcess _ _ (publishSnapshot_runsAlone h')
    rw [hless]
    exact ⟨t, runsTo_succ hstep ht, haudf.trans ((audioAfter_publishSnapshot s' r).trans ha)⟩
termination_by r.actionsLeft
decreasing_by all_goals omega

/-- Settles O23: the run reaches its completion, which leaves the audio FIFO as the pushes made it. -/
theorem audioEntersInOutputOrder : Obligations.AudioEntersInOutputOrder := by
  unfold Obligations.AudioEntersInOutputOrder
  intro s r hseq hturns _ _ haudf
  obtain ⟨t, ht, ha⟩ := runsTo_finishProcess r s ⟨hseq, hturns, haudf⟩
  refine ⟨_, _, ht, rfl, rfl, ha.trans ?_⟩
  rw [State.audioAfter, keepNewest, List.length_append, List.length_drop]

end Sys2Proof.Machine
end

section
/-! PROOF. The encoding: a word decodes to a command exactly when it is that command's encoding, and with it the round
trips and the opcode table's patterns (R150 to R159). -/

namespace Sys2Proof

open Sys2Proof.Machine

/-! ### The fields of a word as parts of its number -/

theorem toNat_extractLsb'_eq (w : Word) (start len : Nat) :
    (w.extractLsb' start len).toNat = w.toNat / 2 ^ start % 2 ^ len := by
  rw [BitVec.extractLsb'_toNat, Nat.shiftRight_eq_div_pow]

theorem extractLsb'_eq_iff {w : Word} {start len : Nat} {v : BitVec len} :
    w.extractLsb' start len = v ↔ w.toNat / 2 ^ start % 2 ^ len = v.toNat := by
  rw [← BitVec.toNat_inj, toNat_extractLsb'_eq]

theorem getLsbD_eq_iff {w : Word} {i : Nat} {b : Bool} : w.getLsbD i = b ↔ w.toNat / 2 ^ i % 2 = b.toNat := by
  rw [← BitVec.testBit_toNat, ← Nat.toNat_testBit]
  cases w.toNat.testBit i <;> cases b <;> decide

/-! ### The encodings, field by field -/

theorem shiftLeft_or_eq_add (a : Nat) {i b : Nat} (h : b < 2 ^ i) : a <<< i ||| b = a * 2 ^ i + b := by
  rw [← Nat.shiftLeft_add_eq_or_of_lt h, Nat.shiftLeft_eq]

theorem toNat_encode_process (n : BitVec 20) (snap : Bool) :
    (encode (.process n snap)).toNat = n.toNat * 2 ^ 12 + (snap.toNat * 2 ^ 4 + 1) := by
  have hsnap : snap.toNat < 2 := Bool.toNat_lt snap
  have hn : (n.setWidth 64 <<< 12).toNat = n.toNat <<< 12 := by
    rw [BitVec.toNat_shiftLeft, BitVec.toNat_setWidth, Nat.shiftLeft_eq, Nat.shiftLeft_eq]
    omega
  have hs : ((BitVec.ofBool snap).setWidth 64 <<< 4).toNat = snap.toNat <<< 4 := by cases snap <;> rfl
  calc (encode (.process n snap)).toNat
      = n.toNat <<< 12 ||| (snap.toNat <<< 4 ||| 1) := by
        rw [encode, BitVec.toNat_or, BitVec.toNat_or, hn, hs, Nat.or_assoc]; rfl
    _ = n.toNat * 2 ^ 12 + (snap.toNat * 2 ^ 4 + 1) := by
        rw [shiftLeft_or_eq_add snap.toNat (by omega), shiftLeft_or_eq_add n.toNat (by omega)]

/-- Format P (R152): the fields of an encoded `PROCESS` are its opcode, its operands and reserved bits 0. -/
theorem eq_encode_process_iff {w : Word} {n : BitVec 20} {snap : Bool} :
    w = encode (.process n snap) ↔
      w.extractLsb' 0 4 = 0x1#4 ∧ w.extractLsb' 32 32 = 0#32 ∧ w.extractLsb' 5 7 = 0#7 ∧
        w.extractLsb' 12 20 = n ∧ w.getLsbD 4 = snap := by
  have hw := w.isLt
  have hsnap : snap.toNat < 2 := Bool.toNat_lt snap
  rw [← BitVec.toNat_inj, toNat_encode_process]
  simp only [extractLsb'_eq_iff, getLsbD_eq_iff, BitVec.toNat_ofNat]
  omega

/-- Format B (R154): `OP` and reserved bits 0 make the word. -/
theorem eq_of_bare_fields {w : Word} {k : Nat} (hop : (w.extractLsb' 0 4).toNat = k)
    (hres : w.extractLsb' 4 60 = 0#60) : w = BitVec.ofNat 64 k := by
  have hw := w.isLt
  rw [toNat_extractLsb'_eq] at hop
  rw [extractLsb'_eq_iff, BitVec.toNat_ofNat] at hres
  apply BitVec.eq_of_toNat_eq
  rw [BitVec.toNat_ofNat]
  omega

/-- Format W (R153): `OP`, `WTYPE` and reserved bits 0 make the word. -/
theorem eq_of_wingen_fields {w : Word} {k t : Nat} (hop : (w.extractLsb' 0 4).toNat = k)
    (htype : (w.extractLsb' 4 2).toNat = t) (hres : w.extractLsb' 6 58 = 0#58) :
    w = BitVec.ofNat 64 (t * 2 ^ 4 + k) := by
  have hw := w.isLt
  rw [toNat_extractLsb'_eq] at hop htype
  rw [extractLsb'_eq_iff, BitVec.toNat_ofNat] at hres
  apply BitVec.eq_of_toNat_eq
  rw [BitVec.toNat_ofNat]
  omega

/-! ### What each format accepts -/

theorem eq_of_decodeBare {w : Word} {i j : Instr} {k : Nat} (hop : (w.extractLsb' 0 4).toNat = k)
    (h : decodeBare w i = .ok j) : w = BitVec.ofNat 64 k ∧ j = i := by
  have hres := reserved_of_decodeBare h
  rw [decodeBare, if_pos hres] at h
  exact ⟨eq_of_bare_fields hop hres, (Except.ok.inj h).symm⟩

theorem eq_encode_of_decodeProcess {w : Word} {i : Instr} (hop : (w.extractLsb' 0 4).toNat = 1)
    (h : decodeProcess w = .ok i) : w = encode i := by
  have hres := reserved_of_decodeProcess h
  rw [decodeProcess, if_pos hres] at h
  cases h
  exact eq_encode_process_iff.mpr ⟨BitVec.eq_of_toNat_eq hop, hres.1, hres.2, rfl, rfl⟩

theorem eq_encode_of_decodeWingen {w : Word} {i : Instr} (hop : (w.extractLsb' 0 4).toNat = 5)
    (h : decodeWingen w = .ok i) : w = encode i := by
  have hres := reserved_of_decodeWingen h
  rw [decodeWingen, if_pos hres] at h
  split at h
  next htype => cases h; exact eq_of_wingen_fields hop htype hres
  next htype => cases h; exact eq_of_wingen_fields hop htype hres
  next => cases h

/-! ### The decoder and the encoding are inverse -/

theorem decode_encode (i : Instr) : decode (encode i) = .ok i := by
  cases i with
  | process n snap =>
    obtain ⟨hop, hhi, hmid, hn, hsnap⟩ := eq_encode_process_iff.mp (rfl : encode (.process n snap) = _)
    have hformat : decode (encode (.process n snap)) = decodeProcess (encode (.process n snap)) := by
      rw [decode, hop]; rfl
    rw [hformat, decodeProcess, if_pos ⟨hhi, hmid⟩, hn, hsnap]
  | nop | reinit | iqClear | audClear | wingenHann | wingenHamming => rfl

theorem eq_encode_of_decode {w : Word} {i : Instr} (h : decode w = .ok i) : w = encode i := by
  unfold decode at h
  split at h
  case h_1 hop | h_3 hop | h_4 hop | h_5 hop =>
    obtain ⟨hw, rfl⟩ := eq_of_decodeBare hop h
    exact hw
  case h_2 hop => exact eq_encode_of_decodeProcess hop h
  case h_6 hop => exact eq_encode_of_decodeWingen hop h
  case h_7 => cases h

theorem decode_eq_ok_iff {w : Word} {i : Instr} : decode w = .ok i ↔ w = encode i :=
  ⟨eq_encode_of_decode, fun h => h ▸ decode_encode i⟩

/-- Settles O1, from the fields of an encoded `PROCESS`; the other commands have one word each. -/
theorem encodedCommandDecodesToItself : Obligations.EncodedCommandDecodesToItself := by
  unfold Obligations.EncodedCommandDecodesToItself
  exact decode_encode

/-- Settles O2: the fields that the accepting format reads, and its reserved bits, make the whole word. -/
theorem acceptedWordIsTheEncoding : Obligations.AcceptedWordIsTheEncoding := by
  unfold Obligations.AcceptedWordIsTheEncoding
  intro w i h
  exact (eq_encode_of_decode h).symm

/-! ### The match and mask pairs (R157) -/

theorem and_fullMask_eq_encode_iff (w : Word) (i : Instr) :
    w &&& 0xFFFFFFFFFFFFFFFF#64 = encode i ↔ decode w = .ok i := by
  have hmask : (0xFFFFFFFFFFFFFFFF#64) = BitVec.allOnes 64 := rfl
  rw [hmask, BitVec.and_allOnes, decode_eq_ok_iff]

theorem encode_process_and_mask (n : BitVec 20) (snap : Bool) :
    encode (.process n snap) &&& 0xFFFFFFFF00000FEF#64 = 0x1#64 := by
  apply BitVec.eq_of_getLsbD_eq
  intro i hi
  simp only [encode, BitVec.getLsbD_and, BitVec.getLsbD_or, BitVec.getLsbD_shiftLeft, BitVec.getLsbD_setWidth]
  interval_cases i <;> simp

/-- The mask of the `PROCESS` row covers `OP` and the reserved bits of format P (R152), and no operand. -/
theorem fields_of_and_processMask {w : Word} (h : w &&& 0xFFFFFFFF00000FEF#64 = 0x1#64) :
    w.extractLsb' 0 4 = 0x1#4 ∧ w.extractLsb' 32 32 = 0#32 ∧ w.extractLsb' 5 7 = 0#7 := by
  have field (start len : Nat) (hones : (0xFFFFFFFF00000FEF#64).extractLsb' start len = BitVec.allOnes len) :
      w.extractLsb' start len = (0x1#64).extractLsb' start len := by
    rw [← h, BitVec.extractLsb'_and, hones, BitVec.and_allOnes]
  exact ⟨field 0 4 rfl, field 32 32 rfl, field 5 7 rfl⟩

theorem and_processMask_eq_iff (w : Word) :
    w &&& 0xFFFFFFFF00000FEF#64 = 0x1#64 ↔ decode w = .ok (.process (w.extractLsb' 12 20) (w.getLsbD 4)) := by
  rw [decode_eq_ok_iff]
  constructor
  · intro h
    obtain ⟨hop, hhi, hmid⟩ := fields_of_and_processMask h
    exact eq_encode_process_iff.mpr ⟨hop, hhi, hmid, rfl, rfl⟩
  · intro h
    calc w &&& 0xFFFFFFFF00000FEF#64
        = encode (.process (w.extractLsb' 12 20) (w.getLsbD 4)) &&& 0xFFFFFFFF00000FEF#64 := congrArg (· &&& _) h
      _ = 0x1#64 := encode_process_and_mask _ _

/-- Settles O3: the mask of `PROCESS` leaves out its operands, and the other masks cover the whole word. -/
theorem tablePatternsSelectTheirCommands : Obligations.TablePatternsSelectTheirCommands := by
  unfold Obligations.TablePatternsSelectTheirCommands
  intro w
  exact ⟨and_fullMask_eq_encode_iff w .nop, and_processMask_eq_iff w, and_fullMask_eq_encode_iff w .reinit,
    and_fullMask_eq_encode_iff w .iqClear, and_fullMask_eq_encode_iff w .audClear,
    and_fullMask_eq_encode_iff w .wingenHann, and_fullMask_eq_encode_iff w .wingenHamming⟩

/-! ### The bytes of a word (R105) -/

/-- `bytesOfWord` lists the bytes `byteOf` gives, so the word made of them is the word itself. -/
theorem decodeBytes_bytesOfWord (w : Word) : decodeBytes (bytesOfWord w) = decode w :=
  congrArg decode (wordOfBytes_byteOf w)

theorem decodeTableWord_of_encode {i : Instr} {v : Nat} (h : (encode i).toNat = v) : decodeTableWord 64 v = some i := by
  have hword : tableWord 64 v = encode i := by
    rw [tableWord, ← h, Nat.mod_eq_of_lt (encode i).isLt, BitVec.ofNat_toNat, BitVec.setWidth_eq]
  rw [decodeTableWord, hword, decodeBytes_bytesOfWord, decode_encode]

/-- Settles O4: each word is the number of its command's encoding. -/
theorem writtenOutWordsDecode : Obligations.WrittenOutWordsDecode := by
  unfold Obligations.WrittenOutWordsDecode
  exact ⟨decodeTableWord_of_encode rfl, decodeTableWord_of_encode rfl, decodeTableWord_of_encode rfl,
    decodeTableWord_of_encode rfl, decodeTableWord_of_encode rfl, decodeTableWord_of_encode rfl,
    decodeTableWord_of_encode rfl, decodeTableWord_of_encode rfl⟩

end Sys2Proof
end

section
/-! PROOF. Writes that the host bus refuses because their region is read-only (R210), and the write of `STATUS` that
clears flags (R205). -/

namespace Sys2Proof.Machine

/-! ### Read-only regions (R210) -/

/-- A write at an offset of a read-only region is refused, busy or not (R202, R210). -/
theorem hostWrite_of_readOnly {off : Offset} {s : State} {g : Region} (ha : off.toNat % 8 = 0)
    (hg : region s.build off = some g) (hro : readOnly g = true) (v : Word) :
    hostWrite off v s = busError .readOnly off s := by
  simp [hostWrite, ha, hg, hro]

theorem region_spectrum {b : Build} {off : Offset} {k : Nat} (hk : k < b.fftN)
    (ho : off.toNat = spectrumBase + 8 * k) : region b off = some (.spectrum k) := by
  have hn := (fftN_bounds b).2
  rw [region, ho, register_none (by rw [spectrumBase]; omega),
    lutIndex_above (by rw [paletteBase, spectrumBase]; omega),
    lutIndex_above (by rw [winLutBase, spectrumBase]; omega), lutIndex_entry hk]
  rfl

theorem region_wfRow {b : Build} {off : Offset} {k : Nat} (hk : k < b.fftN)
    (ho : off.toNat = wfRowBase + 8 * k) : region b off = some (.wfRow k) := by
  have hn := (fftN_bounds b).2
  rw [region, ho, register_none (by rw [wfRowBase]; omega),
    lutIndex_above (by rw [paletteBase, wfRowBase]; omega), lutIndex_above (by rw [winLutBase, wfRowBase]; omega),
    lutIndex_above (by rw [spectrumBase, wfRowBase]; omega), lutIndex_entry hk]
  rfl

/-- The offset of a register, at 8-byte stride (R32). -/
def Reg.offset (r : Reg) : Offset := BitVec.ofNat 22 (8 * registers.idxOf r)

theorem Reg.isAt_offset (r : Reg) : r.isAt r.offset = true := by
  cases r <;> decide

/-- The offsets of the read-only registers, in rising order (R32, R210). -/
def readOnlyOffsets : List Offset := (registers.filter fun r => readOnly (.reg r)).map Reg.offset

theorem mem_readOnlyOffsets_iff (off : Offset) :
    off ∈ readOnlyOffsets ↔ ∃ r ∈ registers, readOnly (.reg r) = true ∧ r.offset = off := by
  simp [readOnlyOffsets, and_assoc]

theorem hostWrite_of_mem_readOnlyOffsets {off : Offset} (h : off ∈ readOnlyOffsets) (v : Word) (s : State) :
    hostWrite off v s = busError .readOnly off s := by
  obtain ⟨r, -, hro, rfl⟩ := (mem_readOnlyOffsets_iff off).mp h
  exact hostWrite_of_readOnly ((r.isAt_iff _).mp r.isAt_offset).1 (region_of_isAt r.isAt_offset s.build) hro v

/-- Settles O34: the 19 offsets listed are `readOnlyOffsets`, and the others name entries of the read-only LUTs. -/
theorem readOnlyWritesAreRefused : Obligations.ReadOnlyWritesAreRefused := by
  unfold Obligations.ReadOnlyWritesAreRefused
  intro off v s hoff
  show hostWrite off v s = busError .readOnly off s
  obtain hmem | ⟨k, hk, ho | ho⟩ := hoff
  · have hro : off ∈ readOnlyOffsets := hmem
    exact hostWrite_of_mem_readOnlyOffsets hro v s
  · exact hostWrite_of_readOnly (by omega) (region_spectrum hk ho) rfl v
  · exact hostWrite_of_readOnly (by omega) (region_wfRow hk ho) rfl v

/-! ### The write of `STATUS` (R205) -/

/-- The flags take bits [7:1] of `STATUS` (R40). -/
theorem sourceBit_bounds (f : Source) : 1 ≤ sourceBit f ∧ sourceBit f ≤ 7 := by
  cases f <;> decide

/-- A flag outlives the clearing when its own bit of the word is 0 (R205). -/
theorem clearFlags_flag (v : Word) (s : State) (f : Source) :
    (clearFlags v s).flag f = (s.flag f && !v.getLsbD (sourceBit f)) := by
  obtain ⟨hlo, hhi⟩ := sourceBit_bounds f
  have hwidth : sourceBit f - 1 < 7 := by omega
  have hbit : 1 + (sourceBit f - 1) = sourceBit f := by omega
  simp [State.flag, hwidth, hbit]

/-- Settles O41: `STATUS` is a writable register, and its write is `clearFlags`. -/
theorem statusWriteClearsTheNamedFlags : Obligations.StatusWriteClearsTheNamedFlags := by
  unfold Obligations.StatusWriteClearsTheNamedFlags
  intro v s
  have hw : hostWrite 0x038#22 v s = clearFlags v s := hostWrite_of_isAt .status rfl rfl v s
  rw [hw]
  exact ⟨rfl, clearFlags_flag v s⟩

end Sys2Proof.Machine
end

section
/-! PROOF. The sample FIFOs: the pushes, the pops and the clears (R251 to R266), what a burst of pushes keeps
(R252), what each streaming port can reach (R253, R264, R620), and the block that `PROCESS` takes (R255, R461). -/

namespace Sys2Proof.Machine

/-! ### The clears (R256, R266) -/

theorem complete_eq (s : State) : complete s = { s with seq := .idle, flags := s.flags ||| 0b1#7 } := rfl

/-- Settles O14: the clear is a completion on the emptied FIFO, and no counter or other flag is named. -/
theorem iqClearEmptiesTheIqFifo : Obligations.IqClearEmptiesTheIqFifo := by
  unfold Obligations.IqClearEmptiesTheIqFifo
  intro s
  exact congrArg Host.Outcome.next (complete_eq { s with iqf := [] })

/-- Settles O15: the same for the audio FIFO. -/
theorem audClearEmptiesTheAudioFifo : Obligations.AudClearEmptiesTheAudioFifo := by
  unfold Obligations.AudClearEmptiesTheAudioFifo
  intro s
  exact congrArg Host.Outcome.next (complete_eq { s with audf := [] })

/-! ### One push or pop (R251, R261, R265) -/

theorem iqPush_of_full {s : State} (h : s.iqf.length = s.build.cIq - 1) (x : Cplx) :
    iqPush x s = setFlag .iqOvf { s with iqf := s.iqf.drop 1 ++ [x], iqDrops := s.iqDrops + 1#64 } :=
  ((iqPush_cases x s).resolve_right fun hroom => hroom.1 h).2

theorem iqPush_of_room {s : State} (h : s.iqf.length ≠ s.build.cIq - 1) (x : Cplx) :
    iqPush x s = { s with iqf := s.iqf ++ [x] } :=
  ((iqPush_cases x s).resolve_left fun hfull => h hfull.1).2

theorem audPush_of_full {s : State} (h : s.audf.length = s.build.cAud - 1) (v : F64) :
    audPush v s = setFlag .audOvf { s with audf := s.audf.drop 1 ++ [v], audDrops := s.audDrops + 1#64 } :=
  ((audPush_cases v s).resolve_right fun hroom => hroom.1 h).2

theorem audPush_of_room {s : State} (h : s.audf.length ≠ s.build.cAud - 1) (v : F64) :
    audPush v s = { s with audf := s.audf ++ [v] } :=
  ((audPush_cases v s).resolve_left fun hfull => h hfull.1).2

theorem audPop_of_cons {s : State} {v : F64} {q : List F64} (h : s.audf = v :: q) :
    audPop s = (v, { s with audf := q }) := by
  rw [audPop, h]

theorem audPop_of_nil {s : State} (h : s.audf = []) :
    audPop s = (fZero, setFlag .audUnf { s with audUnf := s.audUnf + 1#64 }) := by
  rw [audPop, h]

/-- The audio port delivers what the pop gives (R264). -/
theorem outsideStep_consPop (s : State) :
    outsideStep .consPop s = { (audPop s).2 with env := { (audPop s).2.env with audioOut := (audPop s).1 } } := rfl

/-- A read of `AUD_POP` returns the bits of what the pop gives (R209). -/
theorem hostRead_audPop (s : State) : hostRead 0x0E8#22 s = ((audPop s).1.bits, (audPop s).2) :=
  hostRead_of_isAt .audPop rfl s

/-- Settles O27: the capture port's step is the push. -/
theorem capturePushDropsTheOldestWhenFull : Obligations.CapturePushDropsTheOldestWhenFull := by
  unfold Obligations.CapturePushDropsTheOldestWhenFull
  intro s x
  exact ⟨fun hfull => iqPush_of_full hfull x, fun hroom => iqPush_of_room hroom x⟩

/-- Settles O29: the engine's push, by whether the audio FIFO is full. -/
theorem audioPushDropsTheOldestWhenFull : Obligations.AudioPushDropsTheOldestWhenFull := by
  unfold Obligations.AudioPushDropsTheOldestWhenFull
  intro s v
  exact ⟨fun hfull => audPush_of_full hfull v, fun hroom => audPush_of_room hroom v⟩

/-- Settles O30: both ways to pop hand on the same `audPop`. -/
theorem audioPopDeliversTheOldestOrSilence : Obligations.AudioPopDeliversTheOldestOrSilence := by
  unfold Obligations.AudioPopDeliversTheOldestOrSilence
  intro s
  rw [outsideStep_consPop, hostRead_audPop]
  refine ⟨fun v q hq => ?_, fun hq => ?_⟩
  · rw [audPop_of_cons hq]
    exact ⟨rfl, rfl⟩
  · rw [audPop_of_nil hq]
    exact ⟨rfl, rfl⟩

/-! ### What each port can reach (R253, R264, R620) -/

/-- Setting bits outside a mask leaves what the mask selects. -/
theorem or_and_of_disjoint {w : Nat} {m k : BitVec w} (h : m &&& k = 0#w) (x : BitVec w) :
    (x ||| m) &&& k = x &&& k := by
  rw [BitVec.and_or_distrib_right, h, BitVec.or_zero]

theorem iqPush_frame (x : Cplx) (s : State) :
    iqPush x s = { s with iqf := (iqPush x s).iqf, iqDrops := (iqPush x s).iqDrops, flags := (iqPush x s).flags } := by
  obtain ⟨_, e⟩ | ⟨_, e⟩ := iqPush_cases x s
  · rw [e]
    rfl
  · rw [e]

theorem iqPush_otherFlags (x : Cplx) (s : State) :
    (iqPush x s).flags &&& 0b1111011#7 = s.flags &&& 0b1111011#7 := by
  obtain ⟨_, e⟩ | ⟨_, e⟩ := iqPush_cases x s
  · rw [e]
    exact or_and_of_disjoint (m := sourceMask .iqOvf) (by decide) s.flags
  · rw [e]

theorem audPop_frame (s : State) :
    (audPop s).2 =
      { s with audf := (audPop s).2.audf, audUnf := (audPop s).2.audUnf, flags := (audPop s).2.flags } := by
  obtain ⟨_, e⟩ | ⟨_, _, _, e⟩ := audPop_cases s
  · rw [e]
    rfl
  · rw [e]

theorem audPop_otherFlags (s : State) : (audPop s).2.flags &&& 0b1101111#7 = s.flags &&& 0b1101111#7 := by
  obtain ⟨_, e⟩ | ⟨_, _, _, e⟩ := audPop_cases s
  · rw [e]
    exact or_and_of_disjoint (m := sourceMask .audUnf) (by decide) s.flags
  · rw [e]

/-- Settles O26: the capture port is the push, and the audio port the pop with its sample delivered. -/
theorem portsReachOnlyTheirFifos : Obligations.PortsReachOnlyTheirFifos := by
  unfold Obligations.PortsReachOnlyTheirFifos
  intro s x
  refine ⟨⟨iqPush_frame x s, iqPush_otherFlags x s⟩, ?_, audPop_otherFlags s⟩
  rw [outsideStep_consPop, audPop_frame s]

/-! ### A burst of pushes (R252) -/

theorem length_keepNewest {α : Type} (cap : Nat) (q : List α) : (keepNewest cap q).length = min cap q.length := by
  rw [keepNewest, List.length_drop]
  omega

theorem two_le_cIq (b : Build) : 2 ≤ b.cIq := by
  obtain ⟨_, _, h, _⟩ := build_range b
  exact h

theorem iqPush_build (x : Cplx) (s : State) : (iqPush x s).build = s.build := by rw [iqPush_frame]

/-- A push keeps the newest samples that fit (R251). -/
theorem iqPush_iqf {s : State} (h : s.iqf.length ≤ s.build.cIq - 1) (x : Cplx) :
    (iqPush x s).iqf = keepNewest (s.build.cIq - 1) (s.iqf ++ [x]) := by
  rw [← fifoPush_eq_keepNewest (two_le_cIq s.build) h x, iqPush]
  split <;> rfl

/-- A push counts the samples that no longer fit: one or none (R251). -/
theorem iqPush_iqDrops {s : State} (h : s.iqf.length ≤ s.build.cIq - 1) (x : Cplx) :
    (iqPush x s).iqDrops = s.iqDrops + BitVec.ofNat 64 (s.iqf.length + 1 - (s.build.cIq - 1)) := by
  obtain ⟨hfull, e⟩ | ⟨hroom, e⟩ := iqPush_cases x s <;> rw [e]
  · have hone : s.iqf.length + 1 - (s.build.cIq - 1) = 1 := by omega
    rw [hone]
    rfl
  · have hnone : s.iqf.length + 1 - (s.build.cIq - 1) = 0 := by omega
    rw [hnone, BitVec.add_zero]

/-- Pushes one after the other keep the newest samples that fit and count all others (R252). -/
theorem foldl_iqPush (xs : List Cplx) (s : State) (h : s.iqf.length ≤ s.build.cIq - 1) :
    (xs.foldl (fun s x => iqPush x s) s).iqf = keepNewest (s.build.cIq - 1) (s.iqf ++ xs) ∧
    (xs.foldl (fun s x => iqPush x s) s).iqDrops =
      s.iqDrops + BitVec.ofNat 64 (s.iqf.length + xs.length - (s.build.cIq - 1)) := by
  induction xs generalizing s with
  | nil =>
    have hnone : s.iqf.length + 0 - (s.build.cIq - 1) = 0 := by omega
    rw [List.append_nil, keepNewest_of_length_le h, List.length_nil, hnone, BitVec.add_zero]
    exact ⟨rfl, rfl⟩
  | cons x xs ih =>
    have hlen : (iqPush x s).iqf.length = min (s.build.cIq - 1) (s.iqf.length + 1) := by
      rw [iqPush_iqf h, length_keepNewest, List.length_append, List.length_singleton]
    have hlost : s.iqf.length + 1 - (s.build.cIq - 1) +
        (min (s.build.cIq - 1) (s.iqf.length + 1) + xs.length - (s.build.cIq - 1)) =
        s.iqf.length + (xs.length + 1) - (s.build.cIq - 1) := by omega
    obtain ⟨hiqf, hdrops⟩ := ih (iqPush x s) (by rw [iqPush_build, hlen]; exact Nat.min_le_left _ _)
    rw [iqPush_build] at hiqf hdrops
    refine ⟨hiqf.trans ?_, hdrops.trans ?_⟩
    · rw [iqPush_iqf h, keepNewest_append, List.append_assoc, List.singleton_append]
    · rw [iqPush_iqDrops h, hlen, BitVec.add_assoc, ← BitVec.ofNat_add, hlost, List.length_cons]

/-- Settles O28: a burst of capture steps is `foldl_iqPush`. -/
theorem burstOfPushesKeepsTheNewest : Obligations.BurstOfPushesKeepsTheNewest := by
  unfold Obligations.BurstOfPushesKeepsTheNewest
  intro s xs _ hq
  obtain ⟨hiqf, hdrops⟩ := foldl_iqPush xs s hq
  refine ⟨hiqf.trans ?_, hdrops⟩
  rw [keepNewest, List.length_append]
  congr 1
  omega

/-! ### The block that `PROCESS` takes (R255, R371, R461) -/

/-- The DSP state that the chain of a `PROCESS` starts from (R371). -/
def dspForRates (c : Ctx) (dsp : Dsp) : Dsp :=
  if c.inRate = dsp.curIn ∧ c.outRate = dsp.curOut then dsp else fresh c.inRate c.outRate

theorem freshOnRateChange_eq_dspForRates (c : Ctx) (s : State) :
    freshOnRateChange c s = { s with dsp := dspForRates c s.dsp } := by
  unfold freshOnRateChange dspForRates
  split <;> rfl

/-- Settles O19: with a sample to take, the start step runs the chain on the state without the oldest ones. -/
theorem processStartRunsTheChainOnTheOldestSamples : Obligations.ProcessStartRunsTheChainOnTheOldestSamples := by
  unfold Obligations.ProcessStartRunsTheChainOnTheOldestSamples
  intro s c n snap hseq hpos
  have hexec : exec (.process n snap) s = .next (startProcess n snap s) := rfl
  obtain ⟨hnone, _⟩ | ⟨_, e⟩ := startProcess_cases n snap s
  · omega
  · rw [hexec, e, context_of_pending hseq, freshOnRateChange_eq_dspForRates]
    rfl

end Sys2Proof.Machine
end

section
/-! PROOF. The spectral unit: what the window generators leave in the LUT (R304), and bit reversal (R313). -/

namespace Sys2Proof.Machine

/-! ### The window generators (R302 to R304) -/

theorem win_loadWindow (w : Build → Nat → F64) {s : State} (hm : Memory.wf s.build s.mem = true) {k : Nat}
    (hk : k < s.build.fftN) : (loadWindow w s).win k = w s.build k := by
  have hlen : k < ((List.range s.build.fftN).map fun k => (w s.build k).bits).length := by simpa using hk
  rw [State.win, loadWindow_build, loadWindow_mem, readWord_writeWords_same _ _ _ _ k hlen hm]
  simp only [List.getElem_map, List.getElem_range]

theorem readByte_loadWindow_other (w : Build → Nat → F64) (s : State) {a : Nat}
    (h : a < winLutBase ∨ winLutBase + 8 * s.build.fftN ≤ a) :
    readByte s.build (loadWindow w s).mem a = readByte s.build s.mem a := by
  rw [loadWindow_mem]
  refine readByte_writeWords_other _ _ _ _ ?_
  rwa [List.length_map, List.length_range]

/-- What a generator answers: `DONE`, the window in the LUT, and the rest as it was (R304, R455). -/
theorem complete_loadWindow (w : Build → Nat → F64) (s : State) (hm : Memory.wf s.build s.mem = true) :
    complete (loadWindow w s) =
      { s with seq := .idle, flags := s.flags ||| 0b1#7, mem := (complete (loadWindow w s)).mem } ∧
    (∀ k, k < s.build.fftN → (complete (loadWindow w s)).win k = w s.build k) ∧
    (∀ a, a < 0x100000 ∨ 0x100000 + 8 * s.build.fftN ≤ a →
      readByte s.build (complete (loadWindow w s)).mem a = readByte s.build s.mem a) :=
  ⟨rfl, fun _ hk => win_loadWindow w hm hk, fun _ ha => readByte_loadWindow_other w s ha⟩

theorem exec_wingenHann (s : State) : exec .wingenHann s = .next (complete (loadWindow hann s)) := rfl

theorem exec_wingenHamming (s : State) : exec .wingenHamming s = .next (complete (loadWindow hamming s)) := rfl

/-- Settles O16: the generator with the entries of `hann`. -/
theorem wingenHannFillsTheWindow : Obligations.WingenHannFillsTheWindow := by
  unfold Obligations.WingenHannFillsTheWindow
  intro s hm
  obtain ⟨hframe, hwin, hbytes⟩ := complete_loadWindow hann s hm
  exact ⟨_, exec_wingenHann s, hframe, fun k hk => (hwin k hk).trans (hann_eq s.build k), hbytes⟩

/-- Settles O17: the generator with the entries of `hamming`. -/
theorem wingenHammingFillsTheWindow : Obligations.WingenHammingFillsTheWindow := by
  unfold Obligations.WingenHammingFillsTheWindow
  intro s hm
  obtain ⟨hframe, hwin, hbytes⟩ := complete_loadWindow hamming s hm
  exact ⟨_, exec_wingenHamming s, hframe, fun k hk => (hwin k hk).trans (hamming_eq s.build k), hbytes⟩

/-! ### Bit reversal (R313) -/

theorem bitReverse_lt (l i : Nat) : bitReverse l i < 2 ^ l := by
  induction l generalizing i with
  | zero => exact Nat.one_pos
  | succ l ih =>
    have hlow := ih (i / 2)
    have hbit : i % 2 * 2 ^ l ≤ 1 * 2 ^ l := Nat.mul_le_mul_right _ (by omega)
    rw [bitReverse, Nat.pow_succ]
    omega

/-- The lowest bit comes on top of the reversal of the others. -/
theorem testBit_bitReverse_succ (l i j : Nat) :
    (bitReverse (l + 1) i).testBit j = if j < l then (bitReverse l (i / 2)).testBit j else (i % 2).testBit (j - l) := by
  rw [bitReverse, Nat.mul_comm, Nat.testBit_two_pow_mul_add _ (bitReverse_lt l _)]

/-- Settles O57, by induction on the number of bits. -/
theorem bitReversalReversesTheBits : Obligations.BitReversalReversesTheBits := by
  unfold Obligations.BitReversalReversesTheBits
  intro l i j
  induction l generalizing i j with
  | zero => simp [bitReverse]
  | succ l ih =>
    rw [testBit_bitReverse_succ]
    rcases Nat.lt_trichotomy j l with hlt | rfl | hgt
    · have hpos : l + 1 - 1 - j = l - 1 - j + 1 := by omega
      rw [if_pos hlt, ih, hpos, Nat.testBit_succ, decide_eq_true hlt, decide_eq_true (by omega)]
    · simp
    · have htwo : 2 ^ 1 ≤ 2 ^ (j - l) := Nat.pow_le_pow_right Nat.two_pos (by omega)
      have htop : (i % 2).testBit (j - l) = false := Nat.testBit_lt_two_pow ((Nat.mod_lt i Nat.two_pos).trans_le htwo)
      rw [if_neg (by omega), htop, decide_eq_false (by omega), Bool.false_and]

end Sys2Proof.Machine
end

section
/-! PROOF. Integers below 2^53 in binary64: their sums, differences and products are exact and draw nothing, so the
4-point reference transform of such points needs no value of `COS64` and `SIN64` but those at 0 (R316). -/

namespace Sys2Proof.Machine

/-! ### Computations that draw nothing -/

/-- The computation draws nothing and its one result satisfies `P`. -/
def Yields {α : Type} (x : Draw α) (P : α → Prop) : Prop := ∃ z, (∀ d, x d = (z, d)) ∧ P z

theorem Yields.pure {α : Type} {P : α → Prop} {z : α} (h : P z) : Yields (Pure.pure z) P := ⟨z, fun _ => rfl, h⟩

theorem Yields.bind {α β : Type} {P : α → Prop} {Q : β → Prop} {x : Draw α} {f : α → Draw β} (hx : Yields x P)
    (hf : ∀ z, P z → Yields (f z) Q) : Yields (x >>= f) Q := by
  obtain ⟨z, hrun, hz⟩ := hx
  obtain ⟨w, hrun', hw⟩ := hf z hz
  exact ⟨w, fun d => by rw [bind_of_eq (hrun d), hrun'], hw⟩

theorem Yields.mono {α : Type} {P Q : α → Prop} {x : Draw α} (hx : Yields x P) (h : ∀ z, P z → Q z) : Yields x Q := by
  obtain ⟨z, hrun, hz⟩ := hx
  exact ⟨z, hrun, h z hz⟩

theorem Yields.orNaN {P : F64 → Prop} {r : Option F64} {z : F64} (hr : r = some z) (hz : P z) : Yields (orNaN r) P :=
  ⟨z, fun d => by rw [hr, orNaN_some], hz⟩

/-! ### Values that are integers -/

/-- The value is the integer `k`; zero has both its signs. -/
def IsInt (x : F64) (k : Int) : Prop :=
  ∃ s m, fval x = .fin s (m * (1 <<< 1074)) ∧ k = if s then -(m : Int) else m

theorem isInt_zero_iff (x : F64) : IsInt x 0 ↔ ∃ s, fval x = .fin s 0 := by
  constructor
  · rintro ⟨s, m, hv, hk⟩
    obtain rfl : m = 0 := by split at hk <;> omega
    exact ⟨s, hv.trans (by rw [Nat.zero_mul])⟩
  · rintro ⟨s, hv⟩
    exact ⟨s, 0, hv.trans (by rw [Nat.zero_mul]), by split <;> rfl⟩

theorem IsInt.congr {x : F64} {j k : Int} (h : IsInt x j) (hjk : j = k) : IsInt x k := hjk ▸ h

theorem isInt_fZero : IsInt fZero 0 := (isInt_zero_iff fZero).2 ⟨false, fval_fZero⟩
theorem isInt_fOne : IsInt fOne 1 := ⟨false, 1, by decide +kernel, rfl⟩
theorem isInt_fFour : IsInt fFour 4 := ⟨false, 4, by decide +kernel, rfl⟩

theorem IsInt.finite {x : F64} {k : Int} (h : IsInt x k) : finite x = true := by
  obtain ⟨s, m, hv, -⟩ := h
  exact finite_of_fval hv

theorem IsInt.feq_fZero {x : F64} (h : IsInt x 0) : feq x fZero = true := by
  rw [feq_iff, fkey_fZero, ← fval_zero_iff, ← isInt_zero_iff]
  exact ⟨isNaN_of_finite h.finite, isNaN_fZero, h⟩

/-- A finite value's bits are its sign and its magnitude. -/
theorem eq_of_fval_eq_fin {x y : F64} {s : Bool} {a : Nat} (hx : fval x = .fin s a) (hy : fval y = .fin s a) :
    x = y := by
  obtain ⟨-, hxs, hxa⟩ := (fval_eq_fin_iff ..).1 hx
  obtain ⟨-, hys, hya⟩ := (fval_eq_fin_iff ..).1 hy
  have henc : encoding x = encoding y := units_strictMono.injective (hxa.trans hya.symm)
  have hsign : x.bits.toNat.testBit 63 = y.bits.toNat.testBit 63 := hxs.trans hys.symm
  have hbits : x.bits = y.bits := by
    apply BitVec.eq_of_toNat_eq
    rw [← Nat.div_add_mod x.bits.toNat (2 ^ 63), ← Nat.div_add_mod y.bits.toNat (2 ^ 63)]
    rw [Nat.testBit_eq_decide_div_mod_eq, Nat.testBit_eq_decide_div_mod_eq, decide_eq_decide] at hsign
    unfold encoding at henc
    omega
  cases x
  cases y
  exact congrArg F64.mk hbits

/-- A nonzero integer has one encoding. -/
theorem IsInt.unique {x y : F64} {k : Int} (hx : IsInt x k) (hy : IsInt y k) (h0 : k ≠ 0) : x = y := by
  obtain ⟨s, m, hxv, hk⟩ := hx
  obtain ⟨t, n, hyv, hk'⟩ := hy
  obtain ⟨rfl, rfl⟩ : s = t ∧ m = n := by
    cases s <;> cases t <;> simp only [Bool.false_eq_true, if_true, if_false] at hk hk' <;> simp <;> omega
  exact eq_of_fval_eq_fin hxv hyv

theorem fsign_fneg (x : F64) : fsign (fneg x) = !fsign x := by
  simp [fsign, fneg]

theorem IsInt.fneg {x : F64} {k : Int} (h : IsInt x k) : IsInt (fneg x) (-k) := by
  obtain ⟨s, m, hv, rfl⟩ := h
  obtain ⟨hfin, rfl, hm⟩ := (fval_eq_fin_iff ..).1 hv
  refine ⟨!fsign x, m, (fval_eq_fin_iff ..).2 ⟨by rwa [encoding_fneg], fsign_fneg x, by rwa [encoding_fneg]⟩, ?_⟩
  cases fsign x <;> simp

/-! ### Exact operations (R15) -/

/-- A ratio that some finite encoding stands for rounds to that encoding. -/
theorem roundBits_of_eq {n d e : Nat} (hd : 0 < d) (he : e ≤ 2047 * 2 ^ 52) (h : n = units e * d) :
    roundBits n d = e :=
  Nat.le_antisymm (roundBits_le_of_le hd h.le) (le_roundBits_of_le hd he h.ge)

/-- An integer below 2^53 has an encoding: its 53-bit significand is the integer shifted up to bit 52. -/
theorem exists_encoding_of_lt {m : Nat} (hm : m < 2 ^ 53) :
    ∃ e, e < 2047 * 2 ^ 52 ∧ units e = m * (1 <<< 1074) := by
  rcases Nat.eq_zero_or_pos m with rfl | hpos
  · exact ⟨0, by decide, by rw [(units_zero_iff 0).2 rfl, Nat.zero_mul]⟩
  have hlog : m.log2 < 53 := (Nat.log2_lt hpos.ne').2 hm
  obtain ⟨q, hq⟩ := Nat.exists_eq_add_of_le (Nat.le_of_lt_succ hlog)
  have hlow : 2 ^ 52 ≤ m * 2 ^ q := by
    rw [hq, Nat.pow_add]
    exact Nat.mul_le_mul_right _ (Nat.log2_self_le hpos.ne')
  have hhigh : m * 2 ^ q ≤ 2 ^ 53 := by
    rw [show 53 = m.log2 + 1 + q by omega, Nat.pow_add]
    exact Nat.mul_le_mul_right _ Nat.lt_log2_self.le
  refine ⟨(1074 - q) * 2 ^ 52 + m * 2 ^ q, by omega, (units_scaled hhigh (.inr hlow)).trans ?_⟩
  rw [Nat.mul_assoc, ← Nat.pow_add, Nat.add_sub_cancel' (by omega), Nat.one_shiftLeft]

/-- Rounding an integer below 2^53 is exact. -/
theorem isInt_fround {s : Bool} {n m d : Nat} {k : Int} (hd : 0 < d) (hn : n = m * (1 <<< 1074) * d)
    (hk : k = if s then -(m : Int) else m) (hlt : k.natAbs < 2 ^ 53) : IsInt (fround s n d) k := by
  have hm : m < 2 ^ 53 := by split at hk <;> omega
  obtain ⟨e, he, hunits⟩ := exists_encoding_of_lt hm
  have hround : encoding (fround s n d) = e := by
    rw [encoding_fround, roundBits_of_eq hd he.le (by rw [hunits, hn])]
  refine ⟨s, m, (fval_eq_fin_iff ..).2 ⟨by rwa [hround], ?_, by rw [hround, hunits]⟩, hk⟩
  exact fsign_withSign s ((roundBits_le n d).trans_lt (by decide))

theorem addResult_of_fin {x y : F64} {s t : Bool} {a b : Nat} (hx : fval x = .fin s a) (hy : fval y = .fin t b) :
    addResult x y =
      if s = t then some (fround s (a + b) 1)
      else if b < a then some (fround s (a - b) 1)
      else if a < b then some (fround t (b - a) 1)
      else some fZero := by
  unfold addResult
  rw [hx, hy]

/-- A sum of integers below 2^53 is exact. -/
theorem fadd_yields_isInt {x y : F64} {a b : Int} (hx : IsInt x a) (hy : IsInt y b) (hab : (a + b).natAbs < 2 ^ 53) :
    Yields (fadd x y) (IsInt · (a + b)) := by
  obtain ⟨s, m, hxv, ha⟩ := hx
  obtain ⟨t, n, hyv, hb⟩ := hy
  have hres := addResult_of_fin hxv hyv
  have hone := one_shiftLeft_pos 1074
  by_cases hst : s = t
  · subst hst
    rw [if_pos rfl] at hres
    refine .orNaN hres (isInt_fround (m := m + n) Nat.one_pos (by rw [Nat.mul_one, Nat.add_mul]) ?_ hab)
    cases s <;> simp [ha, hb]
    omega
  · obtain rfl : t = !s := Bool.eq_not.2 (Ne.symm hst)
    rw [if_neg hst] at hres
    rcases Nat.lt_trichotomy n m with hlt | rfl | hlt
    · rw [if_pos (Nat.mul_lt_mul_of_pos_right hlt hone)] at hres
      refine .orNaN hres (isInt_fround (m := m - n) Nat.one_pos (by rw [Nat.mul_one, Nat.sub_mul]) ?_ hab)
      cases s <;> simp [ha, hb] <;> omega
    · rw [if_neg (Nat.lt_irrefl _), if_neg (Nat.lt_irrefl _)] at hres
      refine .orNaN hres (isInt_fZero.congr ?_)
      cases s <;> simp [ha, hb]
    · rw [if_neg (Nat.mul_le_mul_right _ hlt.le).not_gt, if_pos (Nat.mul_lt_mul_of_pos_right hlt hone)] at hres
      refine .orNaN hres (isInt_fround (m := n - m) Nat.one_pos (by rw [Nat.mul_one, Nat.sub_mul]) ?_ hab)
      cases s <;> simp [ha, hb] <;> omega

theorem fsub_yields_isInt {x y : F64} {a b : Int} (hx : IsInt x a) (hy : IsInt y b) (hab : (a - b).natAbs < 2 ^ 53) :
    Yields (fsub x y) (IsInt · (a - b)) :=
  fadd_yields_isInt hx hy.fneg hab

/-- A product of integers below 2^53 is exact. -/
theorem fmul_yields_isInt {x y : F64} {a b : Int} (hx : IsInt x a) (hy : IsInt y b) (hab : (a * b).natAbs < 2 ^ 53) :
    Yields (fmul x y) (IsInt · (a * b)) := by
  obtain ⟨s, m, hxv, ha⟩ := hx
  obtain ⟨t, n, hyv, hb⟩ := hy
  refine .orNaN (mulResult_finite hxv hyv) (isInt_fround (m := m * n) (one_shiftLeft_pos 1074) (by ac_rfl) ?_ hab)
  rw [ha, hb]
  cases s <;> cases t <;> simp

/-- A finite value times zero is zero. -/
theorem fmul_yields_zero {x y : F64} (hx : finite x = true) (hy : IsInt y 0) : Yields (fmul x y) (IsInt · 0) := by
  obtain ⟨t, hyv⟩ := (isInt_zero_iff y).1 hy
  refine .orNaN (mulResult_finite (fval_of_finite hx) hyv)
    (isInt_fround (m := 0) (one_shiftLeft_pos 1074) ?_ ?_ (by decide))
  · rw [Nat.mul_zero, Nat.zero_mul, Nat.zero_mul]
  · split <;> rfl

/-- Zero over a nonzero finite value is zero. -/
theorem fdiv_yields_zero {x y : F64} (hx : IsInt x 0) (hy : finite y = true) (h0 : encoding y ≠ 0) :
    Yields (fdiv x y) (IsInt · 0) := by
  have hpos : 0 < units (encoding y) := Nat.pos_of_ne_zero fun h => h0 ((units_zero_iff _).1 h)
  have hxu : units (encoding x) = 0 := by
    obtain ⟨s, hxv⟩ := (isInt_zero_iff x).1 hx
    exact ((fval_eq_fin_iff ..).1 hxv).2.2
  refine ⟨_, fdiv_of_finite hx.finite hy h0, isInt_fround (m := 0) hpos ?_ ?_ (by decide)⟩
  · rw [hxu, Nat.zero_shiftLeft, Nat.zero_mul, Nat.zero_mul]
  · split <;> rfl

/-! ### Complex points that are real integers (R19) -/

/-- The complex value is the real integer `k`. -/
def IsReal (z : Cplx) (k : Int) : Prop := IsInt z.re k ∧ IsInt z.im 0

theorem isReal_cZero : IsReal cZero 0 := ⟨isInt_fZero, isInt_fZero⟩

theorem cadd_yields_isReal {u t : Cplx} {a b : Int} (hu : IsReal u a) (ht : IsReal t b)
    (hab : (a + b).natAbs < 2 ^ 53) : Yields (cadd u t) (IsReal · (a + b)) :=
  (fadd_yields_isInt hu.1 ht.1 hab).bind fun _ hre =>
    (fadd_yields_isInt hu.2 ht.2 (by decide)).bind fun _ him => .pure ⟨hre, him⟩

theorem csub_yields_isReal {u t : Cplx} {a b : Int} (hu : IsReal u a) (ht : IsReal t b)
    (hab : (a - b).natAbs < 2 ^ 53) : Yields (csub u t) (IsReal · (a - b)) :=
  (fsub_yields_isInt hu.1 ht.1 hab).bind fun _ hre =>
    (fsub_yields_isInt hu.2 ht.2 (by decide)).bind fun _ him => .pure ⟨hre, him⟩

/-- The twiddle 1 leaves a real integer as it is. -/
theorem cmul_one_yields_isReal {tw z : Cplx} {k : Int} (htw : IsReal tw 1) (hz : IsReal z k) (hk : k.natAbs < 2 ^ 53) :
    Yields (cmul tw z) (IsReal · k) :=
  (fmul_yields_isInt htw.1 hz.1 (by omega)).bind fun _ hrr =>
  (fmul_yields_isInt htw.2 hz.2 (by omega)).bind fun _ hii =>
  (fsub_yields_isInt hrr hii (by omega)).bind fun _ hre =>
  (fmul_yields_isInt htw.1 hz.2 (by omega)).bind fun _ hri =>
  (fmul_yields_isInt htw.2 hz.1 (by omega)).bind fun _ hir =>
  (fadd_yields_isInt hri hir (by omega)).bind fun _ him =>
    .pure ⟨hre.congr (by ring), him.congr (by ring)⟩

/-- Every finite twiddle leaves zero as it is. -/
theorem cmul_zero_yields_isReal {tw z : Cplx} (hre : finite tw.re = true) (him : finite tw.im = true)
    (hz : IsReal z 0) : Yields (cmul tw z) (IsReal · 0) :=
  (fmul_yields_zero hre hz.1).bind fun _ hrr =>
  (fmul_yields_zero him hz.2).bind fun _ hii =>
  (fsub_yields_isInt hrr hii (by decide)).bind fun _ hre' =>
  (fmul_yields_zero hre hz.2).bind fun _ hri =>
  (fmul_yields_zero him hz.1).bind fun _ hir =>
  (fadd_yields_isInt hri hir (by decide)).bind fun _ him' =>
    .pure ⟨hre', him'⟩

/-! ### The 4-point transform (R311, R312) -/

/-- Sizes whose binary64 values the bounds on angles cover. -/
theorem finite_float {n : Nat} (h : n ≤ 2 ^ 16) : finite (float n) = true :=
  finite_of_encoding_le (encoding_float_le h) (by decide)

/-- `TW[0]` is 1: `COS64` and `SIN64` are fixed at 0 (R18). -/
theorem twiddle_zero_yields {n : Nat} (h1 : 1 ≤ n) (hn : n ≤ 2 ^ 16) : Yields (twiddle n 0) (IsReal · 1) := by
  have hzero : IsInt (float 0) 0 := ⟨false, 0, by decide +kernel, rfl⟩
  have hnonzero : encoding (float n) ≠ 0 := by
    have := le_encoding_float h1
    unfold powEncoding at this
    omega
  refine (fmul_yields_zero (by decide) hzero).bind fun p hp =>
    (fdiv_yields_zero hp (finite_float hn) hnonzero).bind fun a ha => ?_
  obtain ⟨s, hv⟩ := (isInt_zero_iff a).1 ha
  have hcos : Yields (cos64 a) (IsInt · 1) := ⟨fOne, cos64_of_zero hv, isInt_fOne⟩
  have hsin : Yields (sin64 a) (IsInt · 0) := ⟨a, sin64_of_zero hv, ha⟩
  exact hcos.bind fun _ hc => hsin.bind fun _ hs => .pure ⟨hc, hs.fneg⟩

/-- Every twiddle is finite: its angle is, and so `COS64` and `SIN64` of it lie in [-1, 1] (R18). -/
theorem twiddle_yields_finite {n k : Nat} (h1 : 1 ≤ n) (hn : n ≤ 2 ^ 16) (hk : k ≤ 2 ^ 16) :
    Yields (twiddle n k) fun tw => finite tw.re = true ∧ finite tw.im = true := by
  have htwoPi : encoding fTwoPi ≤ powEncoding 3 := by decide
  refine Yields.bind (encoding_fmul_le htwoPi (encoding_float_le hk) (by decide) (by decide)) fun p hp =>
    Yields.bind (encoding_fdiv_le hp (by decide) (finite_float hn) (le_encoding_float h1)) fun a ha => ?_
  have hfin : finite a = true := finite_of_encoding_le ha (by decide)
  refine Yields.bind (cos64_of_finite hfin) fun c ⟨hclo, hchi⟩ =>
    Yields.bind (sin64_of_finite hfin) fun s ⟨hslo, hshi⟩ => .pure ⟨finite_of_fle_one hclo hchi, ?_⟩
  rw [finite_iff_encoding, encoding_fneg, ← finite_iff_encoding]
  exact finite_of_fle_one hslo hshi

/-- A butterfly puts the sum and the difference at its two points. -/
theorem butterfly_yields {tw : Cplx} {z : List Cplx} {p q : Nat} {u v : Cplx} {a b : Int}
    (hp : z.getD p cZero = u) (hq : z.getD q cZero = v) (hu : IsReal u a) (ht : Yields (cmul tw v) (IsReal · b))
    (hadd : (a + b).natAbs < 2 ^ 53) (hsub : (a - b).natAbs < 2 ^ 53) :
    Yields (butterfly tw z p q) fun z' =>
      ∃ hi lo, z' = (z.set p hi).set q lo ∧ IsReal hi (a + b) ∧ IsReal lo (a - b) := by
  subst hp hq
  exact ht.bind fun _ ht' =>
    (cadd_yields_isReal hu ht' hadd).bind fun hi hhi =>
      (csub_yields_isReal hu ht' hsub).bind fun lo hlo => .pure ⟨hi, lo, rfl, hhi, hlo⟩

/-- The two stages of two butterflies each. -/
theorem fftRef_two (y0 y1 y2 y3 : Cplx) :
    fftRef 2 [y0, y1, y2, y3] = (do
      let tw0 ← twiddle 4 0
      let tw1 ← twiddle 4 1
      let z1 ← butterfly tw0 [y0, y2, y1, y3] 0 1
      let z2 ← butterfly tw0 z1 2 3
      let z3 ← butterfly tw0 z2 0 2
      butterfly tw1 z3 1 3) := by
  simp [fftRef, fftStage, bitReversed, bitReverse, List.range_succ]

/-- The 4-point transform of real integers with equal odd points: the twiddle `TW[1]` meets only their difference, 0. -/
theorem fftRef_two_yields {y0 y1 y2 y3 : Cplx} {a b c : Int} (h0 : IsReal y0 a) (h1 : IsReal y1 b) (h2 : IsReal y2 c)
    (h3 : IsReal y3 b) (ha : a.natAbs < 2 ^ 50) (hb : b.natAbs < 2 ^ 50) (hc : c.natAbs < 2 ^ 50) :
    Yields (fftRef 2 [y0, y1, y2, y3]) fun x => ∃ x0 x1 x2 x3, x = [x0, x1, x2, x3] ∧
      IsReal x0 (a + c + (b + b)) ∧ IsReal x1 (a - c) ∧ IsReal x2 (a + c - (b + b)) ∧ IsReal x3 (a - c) := by
  rw [fftRef_two]
  refine (twiddle_zero_yields (by decide) (by decide)).bind fun tw0 htw0 =>
    (twiddle_yields_finite (by decide) (by decide) (by decide)).bind fun tw1 ⟨hre1, him1⟩ => ?_
  have hfirst := butterfly_yields (z := [y0, y2, y1, y3]) (p := 0) (q := 1) rfl rfl h0
    (cmul_one_yields_isReal htw0 h2 (by omega)) (by omega) (by omega)
  refine hfirst.bind ?_
  rintro _ ⟨u0, u1, rfl, hu0, hu1⟩
  have hsecond := butterfly_yields (z := [u0, u1, y1, y3]) (p := 2) (q := 3) rfl rfl h1
    (cmul_one_yields_isReal htw0 h3 (by omega)) (by omega) (by omega)
  refine hsecond.bind ?_
  rintro _ ⟨u2, u3, rfl, hu2, hu3⟩
  have hthird := butterfly_yields (z := [u0, u1, u2, u3]) (p := 0) (q := 2) rfl rfl hu0
    (cmul_one_yields_isReal htw0 hu2 (by omega)) (by omega) (by omega)
  refine hthird.bind ?_
  rintro _ ⟨x0, x2, rfl, hx0, hx2⟩
  rw [Int.sub_self] at hu3
  have hfourth := butterfly_yields (z := [x0, u1, x2, u3]) (p := 1) (q := 3) rfl rfl hu1
    (cmul_zero_yields_isReal hre1 him1 hu3) (by omega) (by omega)
  refine hfourth.mono ?_
  rintro _ ⟨x1, x3, rfl, hx1, hx3⟩
  rw [Int.add_zero] at hx1
  rw [Int.sub_zero] at hx3
  exact ⟨x0, x1, x2, x3, rfl, hx0, hx1, hx2, hx3⟩

theorem IsReal.feq_cZero {z : Cplx} (h : IsReal z 0) : feq z.re fZero = true ∧ feq z.im fZero = true :=
  ⟨h.1.feq_fZero, h.2.feq_fZero⟩

/-- Settles O58: both blocks are real integers with equal odd points. -/
theorem referenceFftOfConstantAndImpulse : Obligations.ReferenceFftOfConstantAndImpulse := by
  unfold Obligations.ReferenceFftOfConstantAndImpulse
  intro d
  have hone : IsReal ⟨fOne, fZero⟩ 1 := ⟨isInt_fOne, isInt_fZero⟩
  constructor
  · obtain ⟨_, hrun, x0, x1, x2, x3, rfl, hx0, hx1, hx2, hx3⟩ :=
      fftRef_two_yields hone hone hone hone (by decide) (by decide) (by decide)
    rw [hrun]
    refine ⟨rfl, hx0.1.unique isInt_fFour (by decide), hx0.2.feq_fZero, ?_⟩
    simp only [List.forall_mem_cons]
    exact ⟨hx1.feq_cZero, hx2.feq_cZero, hx3.feq_cZero, List.forall_mem_nil _⟩
  · obtain ⟨_, hrun, x0, x1, x2, x3, rfl, hx0, hx1, hx2, hx3⟩ :=
      fftRef_two_yields hone isReal_cZero isReal_cZero isReal_cZero (by decide) (by decide) (by decide)
    rw [hrun]
    refine ⟨rfl, fun k hk => ?_⟩
    have hbin {z : Cplx} (h : IsReal z 1) : z.re = fOne ∧ feq z.im fZero = true :=
      ⟨h.1.unique isInt_fOne (by decide), h.2.feq_fZero⟩
    interval_cases k
    · exact hbin hx0
    · exact hbin hx1
    · exact hbin hx2
    · exact hbin hx3

end Sys2Proof.Machine
end

section
/-! PROOF. The chain over a block (R400), mode by mode: how many outputs it gives, which elements of the DSP state it
changes, and what an output can be; with `REINIT` and the empty `PROCESS`, which run no chain. -/

namespace Sys2Proof.Machine

/-! ### Commands that run no chain (R370, R461) -/

/-- Settles O13: the rates are those of the pending context. -/
theorem reinitMakesTheDspStateFresh : Obligations.ReinitMakesTheDspStateFresh := by
  unfold Obligations.ReinitMakesTheDspStateFresh
  intro s c hseq
  have hexec : exec .reinit s = .next (complete { s with dsp := fresh (context s).inRate (context s).outRate }) := rfl
  rw [hexec, context_of_pending hseq, complete_eq]
  rfl

/-- Settles O20: the start step completes at once on the state made fresh for the rates. -/
theorem processWithoutSamplesCompletes : Obligations.ProcessWithoutSamplesCompletes := by
  unfold Obligations.ProcessWithoutSamplesCompletes
  intro s c n snap hseq hnone
  have hexec : exec (.process n snap) s = .next (startProcess n snap s) := rfl
  obtain ⟨_, e⟩ | ⟨hpos, _⟩ := startProcess_cases n snap s
  · rw [hexec, e, context_of_pending hseq, freshOnRateChange_eq_dspForRates]
    rfl
  · omega

/-! ### Induction over the samples of a block -/

/-- What every sample keeps holds after the loop; the property may speak of the index of the next sample. -/
theorem chainLoop_preserves {c : Ctx} {k : Coeffs} {P : Nat → Loop → Prop} {xs : List Cplx}
    (hstep : ∀ i x l d, x ∈ xs → P i l → P (i + 1) (chainSample c k i x l d).1) :
    ∀ {i : Nat} {l : Loop} (d : Nat), P i l → P (i + xs.length) (chainLoop c k i xs l d).1 := by
  induction xs with
  | nil => exact fun _ h => h
  | cons x xs ih =>
    intro i l d h
    rw [chainLoop_cons, List.length_cons, Nat.add_comm xs.length, ← Nat.add_assoc]
    exact ih (fun i y l d hy => hstep i y l d (List.mem_cons_of_mem x hy)) _ (hstep i x l d List.mem_cons_self h)

/-- What holds at the start of a block and is kept by every sample holds of the loop state that the block's result is
made of. -/
theorem chainBlock_preserves {b : Build} {c : Ctx} {dsp : Dsp} {xs : List Cplx} {d : Nat} {P : Nat → Loop → Prop}
    (hstart : P 0 (loopStart b c dsp))
    (hstep : ∀ i x l e, x ∈ xs → P i l → P (i + 1) (chainSample c (coeffs c d).1 i x l e).1) :
    ∃ phi l, (chainBlock b c dsp xs d).1 = ({ l.dsp with phi := phi }, l.outs.reverse) ∧ P xs.length l := by
  obtain ⟨phi, e⟩ := chainBlock_eq b c dsp xs d
  refine ⟨phi, _, e, ?_⟩
  simpa only [Nat.zero_add] using chainLoop_preserves hstep (coeffs c d).2 hstart

/-! ### How many outputs a block gives (R358, R359, R382, R386) -/

/-- The samples in the group in progress: WFM counts them in the DSP state, the other modes in the loop. -/
def groupCount (c : Ctx) (l : Loop) : Nat := if c.mode = .wfm then l.dsp.wcnt else l.cnt

theorem groupCount_of_wfm {c : Ctx} (h : c.mode = .wfm) (l : Loop) : groupCount c l = l.dsp.wcnt := if_pos h

theorem groupCount_of_not_wfm {c : Ctx} (h : c.mode ≠ .wfm) (l : Loop) : groupCount c l = l.cnt := if_neg h

/-- A sample joins the group in progress, or it fills the group, which then gives one output. -/
theorem chainSample_groupCount (c : Ctx) (k : Coeffs) (i : Nat) (x : Cplx) (l : Loop) (d : Nat) :
    (groupCount c l + 1 ≠ k.decim ∧ groupCount c (chainSample c k i x l d).1 = groupCount c l + 1 ∧
      (chainSample c k i x l d).1.outs.length = l.outs.length) ∨
    (groupCount c l + 1 = k.decim ∧ groupCount c (chainSample c k i x l d).1 = 0 ∧
      (chainSample c k i x l d).1.outs.length = l.outs.length + 1) := by
  obtain ⟨ch, d', ⟨hm, e⟩ | ⟨hm, e⟩⟩ := chainSample_cases c k i x l d
  · simp only [groupCount_of_wfm hm, e]
    obtain ⟨_, _, ⟨hne, _, e'⟩ | ⟨heq, _, _, e'⟩⟩ := wfmSample_cases c k { l with dsp := { l.dsp with ch := ch } } d' <;>
      rw [e']
    · exact .inl ⟨hne, rfl, rfl⟩
    · exact .inr ⟨heq, rfl, rfl⟩
  · simp only [groupCount_of_not_wfm hm, e]
    obtain ⟨hne, _, _, e'⟩ | ⟨heq, _, _, e'⟩ :=
      averagedSample_cases c k { l with dsp := { l.dsp with ch := ch } } d' <;> rw [e']
    · exact .inl ⟨hne, rfl, rfl⟩
    · exact .inr ⟨heq, rfl, rfl⟩

/-- Of `n` samples, each full group of `D` has given one output and the rest are in the group in progress. -/
def Loop.Counts (c : Ctx) (k : Coeffs) (n : Nat) (l : Loop) : Prop :=
  groupCount c l < k.decim ∧ l.outs.length * k.decim + groupCount c l = n

theorem chainSample_counts {c : Ctx} {k : Coeffs} {n : Nat} {l : Loop} (h : l.Counts c k n) (i : Nat) (x : Cplx)
    (d : Nat) : (chainSample c k i x l d).1.Counts c k (n + 1) := by
  obtain ⟨hlt, hsum⟩ := h
  unfold Loop.Counts
  obtain ⟨hne, hcount, houts⟩ | ⟨heq, hcount, houts⟩ := chainSample_groupCount c k i x l d <;> rw [hcount, houts]
  · omega
  · rw [Nat.add_mul]
    omega

theorem Loop.Counts.eq_div_mod {c : Ctx} {k : Coeffs} {n : Nat} {l : Loop} (h : l.Counts c k n) :
    l.outs.length = n / k.decim ∧ groupCount c l = n % k.decim := by
  obtain ⟨hlt, rfl⟩ := h
  rw [Nat.mul_comm, Nat.mul_add_div (by omega), Nat.mul_add_mod, Nat.div_eq_of_lt hlt, Nat.mod_eq_of_lt hlt]
  exact ⟨rfl, rfl⟩

/-- A block that starts with `w` samples in its group gives an output for each full group, the new samples included. -/
theorem chainBlock_counts (b : Build) (c : Ctx) (dsp : Dsp) (xs : List Cplx) (d : Nat)
    (hw : groupCount c (loopStart b c dsp) < decimation c.inRate c.outRate) :
    let w := groupCount c (loopStart b c dsp)
    (chainBlock b c dsp xs d).1.2.length = (w + xs.length) / decimation c.inRate c.outRate ∧
    (c.mode = .wfm → (chainBlock b c dsp xs d).1.1.wcnt = (w + xs.length) % decimation c.inRate c.outRate) := by
  intro w
  have hstart : (loopStart b c dsp).Counts c (coeffs c d).1 (w + 0) :=
    ⟨hw, show 0 * _ + w = w by rw [Nat.zero_mul, Nat.zero_add]⟩
  obtain ⟨phi, l, e, hl⟩ := chainBlock_preserves (P := fun i l => l.Counts c (coeffs c d).1 (w + i)) (xs := xs) hstart
    fun i x l e _ h => chainSample_counts h i x e
  obtain ⟨hlen, hcount⟩ := hl.eq_div_mod
  rw [e, List.length_reverse]
  exact ⟨hlen, fun hm => (groupCount_of_wfm hm l).symm.trans hcount⟩

/-- Settles O44: a non-WFM block starts with an empty group. -/
theorem nonWfmBlockOutputCount : Obligations.NonWfmBlockOutputCount := by
  unfold Obligations.NonWfmBlockOutputCount
  intro b c dsp xs d hm
  have hzero : groupCount c (loopStart b c dsp) = 0 := groupCount_of_not_wfm hm _
  have hcounts := (chainBlock_counts b c dsp xs d (hzero ▸ decimation_pos _ _)).1
  rwa [hzero, Nat.zero_add] at hcounts

/-- Settles O45: a WFM block starts with the carried group, or with an empty one where no group is carried (R385). -/
theorem wfmBlockOutputCount : Obligations.WfmBlockOutputCount := by
  unfold Obligations.WfmBlockOutputCount
  intro b c dsp xs d hm hw w
  have hstart : groupCount c (loopStart b c dsp) = w := by
    rw [groupCount_of_wfm hm]
    cases hb : b.wfmAccPersist <;> simp [loopStart, blockStart, hm, hb, w]
  have hlt : w < decimation c.inRate c.outRate := by
    unfold w
    split
    · exact hw
    · exact decimation_pos _ _
  obtain ⟨hlen, hcount⟩ := chainBlock_counts b c dsp xs d (hstart ▸ hlt)
  rw [hstart] at hlen hcount
  exact ⟨hlen, hcount hm⟩

/-! ### Which elements of the DSP state a block changes (R375 to R384, R400) -/

/-- Only the elements that mode `m` uses differ between `t` and `t'`, apart from the phase and the channel filter. -/
structure Dsp.ChangesIn (m : Mode) (t t' : Dsp) : Prop where
  curIn : t'.curIn = t.curIn
  curOut : t'.curOut = t.curOut
  prev : m ≠ .nfm → m ≠ .wfm → t'.prev = t.prev
  dcAm : m ≠ .am → t'.dcAm = t.dcAm
  post : m = .wfm ∨ m = .off → t'.post = t.post
  wfm : m ≠ .wfm → t'.de = t.de ∧ t'.dcWfm = t.dcWfm ∧ t'.wacc = t.wacc ∧ t'.wcnt = t.wcnt

theorem Dsp.ChangesIn.refl (m : Mode) (t : Dsp) : t.ChangesIn m t where
  curIn := rfl
  curOut := rfl
  prev _ _ := rfl
  dcAm _ := rfl
  post _ := rfl
  wfm _ := ⟨rfl, rfl, rfl, rfl⟩

theorem Dsp.ChangesIn.trans {m : Mode} {t t' t'' : Dsp} (h : t.ChangesIn m t') (h' : t'.ChangesIn m t'') :
    t.ChangesIn m t'' where
  curIn := h'.curIn.trans h.curIn
  curOut := h'.curOut.trans h.curOut
  prev hn hw := (h'.prev hn hw).trans (h.prev hn hw)
  dcAm hm := (h'.dcAm hm).trans (h.dcAm hm)
  post hm := (h'.post hm).trans (h.post hm)
  wfm hm := by
    obtain ⟨hde, hdc, hacc, hcnt⟩ := h.wfm hm
    obtain ⟨hde', hdc', hacc', hcnt'⟩ := h'.wfm hm
    exact ⟨hde'.trans hde, hdc'.trans hdc, hacc'.trans hacc, hcnt'.trans hcnt⟩

/-- In WFM only the elements of the other modes, and the rates, need to be the same. -/
theorem Dsp.changesIn_of_wfm {m : Mode} (hm : m = .wfm) {t t' : Dsp} (hin : t'.curIn = t.curIn)
    (hout : t'.curOut = t.curOut) (hpost : t'.post = t.post) (hdc : t'.dcAm = t.dcAm) : t.ChangesIn m t' where
  curIn := hin
  curOut := hout
  prev _ hw := absurd hm hw
  dcAm _ := hdc
  post _ := hpost
  wfm hw := absurd hm hw

/-- What the demodulator of each non-WFM mode changes: AM its average, NFM the previous sample, and every one but OFF
the post-filter (R375 to R378, R390). -/
theorem demodAveraged_changesIn (c : Ctx) (k : Coeffs) (dsp : Dsp) (avg : Cplx) (d : Nat) :
    dsp.ChangesIn c.mode (demodAveraged c k dsp avg d).1.1 := by
  obtain ⟨prev, dcAm, post, e, hprev, hdc, hpost⟩ : ∃ prev dcAm post,
      (demodAveraged c k dsp avg d).1.1 = { dsp with prev := prev, dcAm := dcAm, post := post } ∧
      (c.mode ≠ .nfm → prev = dsp.prev) ∧ (c.mode ≠ .am → dcAm = dsp.dcAm) ∧
      (c.mode = .wfm ∨ c.mode = .off → post = dsp.post) := by
    unfold demodAveraged
    cases c.mode with
    | am => exact ⟨_, _, _, rfl, fun _ => rfl, fun h => absurd rfl h, by simp⟩
    | nfm => exact ⟨_, _, _, rfl, fun h => absurd rfl h, fun _ => rfl, by simp⟩
    | lsb => exact ⟨_, _, _, rfl, fun _ => rfl, fun _ => rfl, by simp⟩
    | usb => exact ⟨_, _, _, rfl, fun _ => rfl, fun _ => rfl, by simp⟩
    | wfm => exact ⟨_, _, _, rfl, fun _ => rfl, fun _ => rfl, fun _ => rfl⟩
    | off => exact ⟨_, _, _, rfl, fun _ => rfl, fun _ => rfl, fun _ => rfl⟩
  rw [e]
  exact ⟨rfl, rfl, fun hn _ => hprev hn, hdc, hpost, fun _ => ⟨rfl, rfl, rfl, rfl⟩⟩

theorem chainSample_changesIn (c : Ctx) (k : Coeffs) (i : Nat) (x : Cplx) (l : Loop) (d : Nat) :
    l.dsp.ChangesIn c.mode (chainSample c k i x l d).1.dsp := by
  obtain ⟨ch, d', ⟨hm, e⟩ | ⟨_, e⟩⟩ := chainSample_cases c k i x l d <;> rw [e]
  · obtain ⟨_, _, ⟨_, _, e'⟩ | ⟨_, _, _, e'⟩⟩ := wfmSample_cases c k { l with dsp := { l.dsp with ch := ch } } d' <;>
      rw [e'] <;> exact Dsp.changesIn_of_wfm hm rfl rfl rfl rfl
  · obtain ⟨_, _, _, e'⟩ | ⟨_, avg, d'', e'⟩ :=
      averagedSample_cases c k { l with dsp := { l.dsp with ch := ch } } d' <;> rw [e']
    · exact { Dsp.ChangesIn.refl c.mode l.dsp with }
    · exact { demodAveraged_changesIn c k { l.dsp with ch := ch } avg d'' with }

theorem blockStart_changesIn (b : Build) (c : Ctx) (dsp : Dsp) : dsp.ChangesIn c.mode (blockStart b c dsp) := by
  unfold blockStart
  split
  case isTrue h => exact Dsp.changesIn_of_wfm h.1 rfl rfl rfl rfl
  case isFalse => exact .refl c.mode dsp

theorem chainBlock_changesIn (b : Build) (c : Ctx) (dsp : Dsp) (xs : List Cplx) (d : Nat) :
    dsp.ChangesIn c.mode (chainBlock b c dsp xs d).1.1 := by
  obtain ⟨phi, l, e, hl⟩ := chainBlock_preserves (P := fun _ l => dsp.ChangesIn c.mode l.dsp) (xs := xs) (d := d)
    (blockStart_changesIn b c dsp) fun i x l e _ h => h.trans (chainSample_changesIn c _ i x l e)
  rw [e]
  exact { hl with }

/-- Settles O49: the elements that the mode does not use are those named. -/
theorem blocksTouchOnlyTheirModesState : Obligations.BlocksTouchOnlyTheirModesState := by
  unfold Obligations.BlocksTouchOnlyTheirModesState
  intro b c dsp xs d
  have h := chainBlock_changesIn b c dsp xs d
  exact ⟨h.curIn, h.curOut, fun hm => ⟨h.post (.inl hm), h.dcAm (by simp [hm])⟩, h.wfm, h.dcAm, h.prev⟩

/-! ### What an output can be (R378, R383, R390, R395) -/

/-- The post-filter's guard: a NaN state becomes +0.0 (R390). -/
def resetNaN (p : F64) : F64 := if isNaN p then fZero else p

theorem resetNaN_of_isNaN {p : F64} (h : isNaN p = true) : resetNaN p = fZero := if_pos h

theorem resetNaN_of_not_isNaN {p : F64} (h : isNaN p = false) : resetNaN p = p := if_neg (by simp [h])

theorem isNaN_resetNaN (p : F64) : isNaN (resetNaN p) = false := by
  cases h : isNaN p
  · rw [resetNaN_of_not_isNaN h, h]
  · rw [resetNaN_of_isNaN h, isNaN_fZero]

/-- The post-filter stores the guarded state, and gains its clamped value. -/
theorem postFilter_eq (c : Ctx) (a : F64) (dsp : Dsp) (y : F64) (d : Nat) :
    postFilter c a dsp y d =
      let p := onePole a dsp.post y d
      let g := gain c (clamp (resetNaN p.1) fMinusOne fOne) p.2
      (({ dsp with post := resetNaN p.1 }, g.1), g.2) := rfl

/-- The WFM output stores the average, and gains the clamped difference from it. -/
theorem wfmOut_eq (c : Ctx) (dsp : Dsp) (v : F64) (d : Nat) :
    wfmOut c dsp v d =
      let dc := dcAverage dsp.dcWfm v d
      let u := fsub v dc.1 dc.2
      let g := gain c (clamp u.1 fMinus0p8 f0p8) u.2
      (({ dsp with dcWfm := dc.1 }, g.1), g.2) := rfl

/-- The demodulator of a mode, without the post-filter (R375 to R377). -/
def demod : Mode → Dsp → Cplx → Draw (Dsp × F64)
  | .am => demodAm
  | .nfm => demodNfm
  | .lsb => demodSsb
  | .usb => demodSsb
  | .off => fun dsp _ => pure (dsp, fZero)
  | .wfm => fun dsp _ => pure (dsp, fZero)

theorem demodAveraged_of_off {c : Ctx} (h : c.mode = .off) (k : Coeffs) (dsp : Dsp) (avg : Cplx) :
    demodAveraged c k dsp avg = pure (dsp, fZero) := by
  simp only [demodAveraged, h]

theorem demodAveraged_of_demod {c : Ctx} (hw : c.mode ≠ .wfm) (hoff : c.mode ≠ .off) (k : Coeffs) (dsp : Dsp)
    (avg : Cplx) :
    demodAveraged c k dsp avg = demod c.mode dsp avg >>= fun r => postFilter c k.aA r.1 r.2 := by
  cases hm : c.mode with
  | am | nfm | lsb | usb => simp only [demodAveraged, hm, demod]
  | wfm => exact absurd hm hw
  | off => exact absurd hm hoff

/-- An output: +0.0 in OFF, else the gain of a limited value, which in the modes with a post-filter is no NaN. -/
inductive IsOutput (c : Ctx) : F64 → Prop
  | off (hm : c.mode = .off) : IsOutput c fZero
  | post (hm : c.mode ≠ .wfm) (hoff : c.mode ≠ .off) (u : F64) (d : Nat) (hu : isNaN u = false) :
    IsOutput c (gain c (clamp u fMinusOne fOne) d).1
  | wfm (hm : c.mode = .wfm) (u : F64) (d : Nat) : IsOutput c (gain c (clamp u fMinus0p8 f0p8) d).1

theorem postFilter_isOutput {c : Ctx} (hm : c.mode ≠ .wfm) (hoff : c.mode ≠ .off) (a : F64) (dsp : Dsp) (y : F64)
    (d : Nat) : IsOutput c (postFilter c a dsp y d).1.2 := by
  rw [postFilter_eq]
  exact .post hm hoff _ _ (isNaN_resetNaN _)

theorem demodAveraged_isOutput {c : Ctx} (hm : c.mode ≠ .wfm) (k : Coeffs) (dsp : Dsp) (avg : Cplx) (d : Nat) :
    IsOutput c (demodAveraged c k dsp avg d).1.2 := by
  by_cases hoff : c.mode = .off
  · rw [demodAveraged_of_off hoff]
    exact .off hoff
  · rw [demodAveraged_of_demod hm hoff, draw_bind]
    exact postFilter_isOutput hm hoff ..

theorem wfmOut_isOutput {c : Ctx} (h : c.mode = .wfm) (dsp : Dsp) (v : F64) (d : Nat) :
    IsOutput c (wfmOut c dsp v d).1.2 := by
  rw [wfmOut_eq]
  exact .wfm h _ _

theorem chainSample_isOutput {c : Ctx} {l : Loop} (h : ∀ o ∈ l.outs, IsOutput c o) (k : Coeffs) (i : Nat) (x : Cplx)
    (d : Nat) : ∀ o ∈ (chainSample c k i x l d).1.outs, IsOutput c o := by
  obtain ⟨ch, d', ⟨hm, e⟩ | ⟨hm, e⟩⟩ := chainSample_cases c k i x l d <;> rw [e]
  · obtain ⟨_, _, ⟨_, _, e'⟩ | ⟨_, _, _, e'⟩⟩ := wfmSample_cases c k { l with dsp := { l.dsp with ch := ch } } d' <;>
      rw [e']
    · exact h
    · exact List.forall_mem_cons.2 ⟨wfmOut_isOutput hm .., h⟩
  · obtain ⟨_, _, _, e'⟩ | ⟨_, _, _, e'⟩ :=
      averagedSample_cases c k { l with dsp := { l.dsp with ch := ch } } d' <;> rw [e']
    · exact h
    · exact List.forall_mem_cons.2 ⟨demodAveraged_isOutput hm .., h⟩

theorem chainBlock_isOutput (b : Build) (c : Ctx) (dsp : Dsp) (xs : List Cplx) (d : Nat) :
    ∀ o ∈ (chainBlock b c dsp xs d).1.2, IsOutput c o := by
  obtain ⟨phi, l, e, hl⟩ := chainBlock_preserves (b := b) (dsp := dsp) (P := fun _ l => ∀ o ∈ l.outs, IsOutput c o)
    (xs := xs) (d := d) (List.forall_mem_nil _) fun i x l e _ h => chainSample_isOutput h _ i x e
  rw [e]
  exact fun o ho => hl o (List.mem_reverse.1 ho)

theorem IsOutput.eq_fZero_of_off {c : Ctx} {o : F64} (h : IsOutput c o) (hm : c.mode = .off) : o = fZero := by
  cases h with
  | off => rfl
  | post _ hoff => exact absurd hm hoff
  | wfm hw => simp [hm] at hw

/-- Muted, an output of any kind is +0.0: the gain forgets its operand. -/
theorem IsOutput.eq_fZero_of_mute {c : Ctx} {o : F64} (h : IsOutput c o) (hmute : c.mute = true) : o = fZero := by
  have hgain (u : F64) (d : Nat) : gain c u d = (fZero, d) := by simp [gain, hmute]
  cases h with
  | off hm => rfl
  | post hm hoff u d hu => rw [hgain]
  | wfm hm u d => rw [hgain]

/-- Settles O46: of the elements that the modes change, OFF uses none. -/
theorem offBlocksAreSilent : Obligations.OffBlocksAreSilent := by
  unfold Obligations.OffBlocksAreSilent
  intro b c dsp xs d hm r
  refine ⟨fun o ho => (chainBlock_isOutput b c dsp xs d o ho).eq_fZero_of_off hm, ?_⟩
  have h : dsp.ChangesIn c.mode r.1 := chainBlock_changesIn b c dsp xs d
  obtain ⟨hde, hdcWfm, hwacc, hwcnt⟩ := h.wfm (by simp [hm])
  have hprev := h.prev (by simp [hm]) (by simp [hm])
  have hdcAm := h.dcAm (by simp [hm])
  rw [← h.curIn, ← h.curOut, ← hprev, ← hdcAm, ← h.post (.inr hm), ← hde, ← hdcWfm, ← hwacc, ← hwcnt]

/-- Settles O47: no kind of output is heard while muted. -/
theorem mutedBlocksAreSilent : Obligations.MutedBlocksAreSilent := by
  unfold Obligations.MutedBlocksAreSilent
  exact fun b c dsp xs d hmute o ho => (chainBlock_isOutput b c dsp xs d o ho).eq_fZero_of_mute hmute

end Sys2Proof.Machine
end

section
/-! PROOF. The limits on the values of the chain: its clamps and the unity gain (R383, R390, R395), the one-pole
coefficients (R355), the decimation factor (R357) and the wrapped phase (R353). -/

namespace Sys2Proof.Machine

/-! ### Clamps (R22) -/

theorem clamp_of_isNaN {x : F64} (h : isNaN x = true) (lo hi : F64) : clamp x lo hi = x := by
  simp [clamp, flt, h]

/-- A value that is no NaN is clamped into its range. -/
theorem fle_clamp {x lo hi : F64} (hx : isNaN x = false) (hrange : fle lo hi = true) :
    fle lo (clamp x lo hi) = true ∧ fle (clamp x lo hi) hi = true := by
  obtain ⟨hlo, hhi, hkey⟩ := (fle_iff ..).1 hrange
  unfold clamp
  simp only [flt_iff, hx, hlo, hhi, true_and]
  split
  · simp only [fle_iff, hlo, hhi, hkey, le_refl, and_self]
  · split <;> simp only [fle_iff, hx, hlo, hhi, true_and] <;> omega

/-- A value between two finite ones is finite. -/
theorem finite_of_fle {lo x hi : F64} (hlo : finite lo = true) (hhi : finite hi = true) (h : fle lo x = true)
    (h' : fle x hi = true) : finite x = true := by
  rw [fle_iff] at h h'
  rw [finite_iff_encoding, ← natAbs_fkey] at *
  omega

/-- Settles O50: the post-filter's guard, then its clamp. -/
theorem postFilterResetsNaN : Obligations.PostFilterResetsNaN := by
  unfold Obligations.PostFilterResetsNaN
  intro c a dsp y d p r
  have hpost : r.1.1.post = resetNaN p.1 := rfl
  have hgain : (r.1.2, r.2) = gain c (clamp (resetNaN p.1) fMinusOne fOne) p.2 := rfl
  have hzero : clamp fZero fMinusOne fOne = fZero := by decide
  rw [hpost, hgain]
  refine ⟨rfl, isNaN_resetNaN _, fun h => ?_, fun h => ?_⟩
  · rw [resetNaN_of_isNaN h, hzero]
    exact ⟨rfl, rfl⟩
  · rw [resetNaN_of_not_isNaN h]
    exact ⟨rfl, rfl, fle_clamp h (by decide)⟩

/-! ### The unity gain (R395) -/

theorem fsign_fround (s : Bool) (n d : Nat) : fsign (fround s n d) = s :=
  fsign_withSign s ((roundBits_le n d).trans_lt (by decide))

/-- A finite value is determined by its sign and its encoding. -/
theorem eq_of_fsign_of_encoding {x y : F64} (hx : finite x = true) (hs : fsign x = fsign y)
    (he : encoding x = encoding y) : x = y := by
  have hy : finite y = true := by rwa [finite_iff_encoding, ← he, ← finite_iff_encoding]
  refine eq_of_fval_eq_fin (fval_of_finite hx) ?_
  rw [fval_of_finite hy, hs, he]

theorem fmul_fOne {x : F64} (hx : finite x = true) (d : Nat) : fmul x fOne d = (x, d) := by
  have hone : units (encoding fOne) = 1 <<< 1074 := (units_powEncoding 0).trans (Nat.one_mul _)
  have hle : encoding x ≤ 2047 * 2 ^ 52 := ((finite_iff_encoding x).1 hx).le
  have henc : roundBits (units (encoding x) * units (encoding fOne)) (1 <<< 1074) = encoding x :=
    roundBits_of_eq (one_shiftLeft_pos _) hle (by rw [hone])
  rw [fmul_of_finite hx (by decide)]
  refine congrArg (·, d) (eq_of_fsign_of_encoding hx ?_ ?_).symm
  · rw [fsign_fround, show fsign fOne = false by decide, Bool.bne_false]
  · rw [encoding_fround, henc]

theorem isNaN_fmul_of_isNaN {x : F64} (h : isNaN x = true) (y : F64) (d : Nat) : isNaN (fmul x y d).1 = true := by
  have hnone : mulResult x y = none := by simp only [mulResult, (fval_nan_iff x).2 h]
  rw [fmul, hnone, orNaN_none]
  exact isNaN_nanOf _

/-- At unity gain a clamped value keeps to the range of its clamp. -/
theorem fle_gain_clamp {c : Ctx} (hmute : c.mute = false) (hvol : c.volume = fOne) {u lo hi : F64}
    (hu : isNaN u = false) (hlo : finite lo = true) (hhi : finite hi = true) (hrange : fle lo hi = true) (d : Nat) :
    fle lo (gain c (clamp u lo hi) d).1 = true ∧ fle (gain c (clamp u lo hi) d).1 hi = true := by
  obtain ⟨hge, hle⟩ := fle_clamp hu hrange
  have hgain : gain c (clamp u lo hi) d = (clamp u lo hi, d) := by
    simp only [gain, hmute, hvol, Bool.false_eq_true, if_false, fmul_fOne (finite_of_fle hlo hhi hge hle)]
  rw [hgain]
  exact ⟨hge, hle⟩

/-- Settles O48: the gain gives the limited value itself; only the WFM limiter passes a NaN. -/
theorem unityGainOutputIsLimited : Obligations.UnityGainOutputIsLimited := by
  unfold Obligations.UnityGainOutputIsLimited
  intro b c dsp xs d hmute hvol o ho
  cases chainBlock_isOutput b c dsp xs d o ho with
  | off hm =>
    rw [if_neg (by simp [hm])]
    decide
  | post hm _ u e hu =>
    rw [if_neg hm]
    exact fle_gain_clamp hmute hvol hu (by decide) (by decide) (by decide) e
  | wfm hm u e =>
    rw [if_pos hm]
    cases hu : isNaN u with
    | true =>
      left
      rw [clamp_of_isNaN hu]
      simpa only [gain, hmute, Bool.false_eq_true, if_false] using isNaN_fmul_of_isNaN hu c.volume e
    | false => exact .inr (fle_gain_clamp hmute hvol hu (by decide) (by decide) (by decide) e)

/-! ### One-pole coefficients (R355) -/

theorem clampUnit_of_not_pos {t : F64} (h : flt fZero t = false) : clampUnit t = fZero := by
  have hbig : flt fOne fZero = false := by decide
  simp only [clampUnit, h, hbig, Bool.false_eq_true, if_false]

theorem clampUnit_of_pos {t : F64} (h : flt fZero t = true) : clampUnit t = if flt fOne t then fOne else t := by
  simp only [clampUnit, h, if_true]

/-- Away from rate 0 a coefficient is the quotient of R355, clamped into [0, 1]. -/
theorem alpha_eq {r : BitVec 32} (hr : r.toNat ≠ 0) (fc : F64) (d : Nat) :
    alpha fc r d =
      let p := fmul fTwoPi fc d
      let a := fdiv p.1 (float r.toNat) p.2
      (clampUnit a.1, a.2) := by
  simp only [alpha, if_neg hr, draw_bind, draw_pure]
  split
  case isTrue h => rw [clampUnit_of_pos h]
  case isFalse h => rw [clampUnit_of_not_pos (Bool.eq_false_iff.2 h)]

theorem alpha_of_rate_zero {r : BitVec 32} (hr : r.toNat = 0) (fc : F64) : alpha fc r = pure fZero := by
  simp only [alpha, if_pos hr]

theorem fle_clampUnit (t : F64) : fle fZero (clampUnit t) = true ∧ fle (clampUnit t) fOne = true := by
  rcases clampUnit_cases t with h | h | ⟨h, hpos, hbig⟩ <;> rw [h]
  · decide
  · decide
  · obtain ⟨-, hnan, hkey⟩ := (flt_iff ..).1 hpos
    rw [← Bool.not_eq_true, flt_iff] at hbig
    simp only [isNaN_fOne, hnan, true_and] at hbig
    simp only [fle_iff, isNaN_fZero, isNaN_fOne, hnan, true_and]
    omega

theorem fle_alpha (fc : F64) (r : BitVec 32) (d : Nat) :
    fle fZero (alpha fc r d).1 = true ∧ fle (alpha fc r d).1 fOne = true := by
  by_cases hr : r.toNat = 0
  · rw [alpha_of_rate_zero hr]
    exact (by decide : fle fZero fZero = true ∧ fle fZero fOne = true)
  · rw [alpha_eq hr]
    exact fle_clampUnit _

theorem fkey_of_not_pos {x : F64} (hnan : isNaN x = false) (h : flt fZero x = false) : fkey x ≤ 0 := by
  rw [← Bool.not_eq_true, flt_iff, fkey_fZero] at h
  simpa only [isNaN_fZero, hnan, true_and, not_lt] using h

/-- A value that is not above zero is a NaN, negative or a zero. -/
theorem fval_of_not_pos {x : F64} (h : flt fZero x = false) :
    fval x = .nan ∨ fval x = .inf true ∨ ∃ s a, fval x = .fin s a ∧ (s = true ∨ a = 0) := by
  cases hnan : isNaN x with
  | true => exact .inl ((fval_nan_iff x).2 hnan)
  | false =>
    have hkey := fkey_of_not_pos hnan h
    rw [fkey_eq_encoding] at hkey
    rcases fval_of_not_isNaN x hnan with ⟨s, hv⟩ | ⟨s, a, hv⟩
    · obtain ⟨henc, rfl⟩ := (fval_eq_inf_iff ..).1 hv
      split at hkey
      case isTrue hs => exact .inr (.inl (hs ▸ hv))
      case isFalse => omega
    · obtain ⟨-, rfl, rfl⟩ := (fval_eq_fin_iff ..).1 hv
      refine .inr (.inr ⟨_, _, hv, ?_⟩)
      split at hkey
      case isTrue hs => exact .inl hs
      case isFalse => exact .inr ((units_zero_iff _).2 (by omega))

theorem not_pos_of_isNaN {x : F64} (h : isNaN x = true) : flt fZero x = false := by
  simp [flt, h]

theorem roundBits_zero {d : Nat} (hd : 0 < d) : roundBits 0 d = 0 :=
  roundBits_of_eq hd (by decide) (by rw [(units_zero_iff 0).2 rfl, Nat.zero_mul])

/-- A rounded value is not above zero if it is negative or stands for zero. -/
theorem not_pos_fround {s : Bool} {n d : Nat} (hd : 0 < d) (h : s = true ∨ n = 0) :
    flt fZero (fround s n d) = false := by
  rw [← Bool.not_eq_true, flt_iff, fkey_fZero, fkey_eq_encoding, fsign_fround, encoding_fround]
  rintro ⟨-, -, hkey⟩
  rcases h with rfl | rfl
  · simp only [if_true] at hkey
    omega
  · simp only [roundBits_zero hd, Int.natCast_zero, Int.neg_zero, ite_self, lt_irrefl] at hkey

/-- A positive finite factor keeps a value not above zero. -/
theorem fmul_not_pos {x y : F64} (hx : finite x = true) (hs : fsign x = false) (hy : flt fZero y = false) (d : Nat) :
    flt fZero (fmul x y d).1 = false := by
  have hxv := fval_of_finite hx
  rw [hs] at hxv
  rcases fval_of_not_pos hy with hv | hv | ⟨t, b, hv, hzero⟩
  · simp only [fmul, mulResult, hxv, hv, orNaN_none]
    exact not_pos_of_isNaN (isNaN_nanOf _)
  · simp only [fmul, mulResult, hxv, hv]
    split
    · exact not_pos_of_isNaN (isNaN_nanOf _)
    · exact (by decide : flt fZero (fInf true) = false)
  · rw [fmul, mulResult_finite hxv hv, orNaN_some, Bool.false_bne]
    exact not_pos_fround (one_shiftLeft_pos _) (hzero.imp_right fun h => by rw [h, Nat.mul_zero])

/-- So does a positive finite divisor. -/
theorem fdiv_not_pos {x y : F64} (hx : flt fZero x = false) (hy : finite y = true) (hs : fsign y = false)
    (h0 : encoding y ≠ 0) (d : Nat) : flt fZero (fdiv x y d).1 = false := by
  have hyv := fval_of_finite hy
  rw [hs] at hyv
  rcases fval_of_not_pos hx with hv | hv | ⟨t, b, hv, hzero⟩
  · simp only [fdiv, divResult, hv, orNaN_none]
    exact not_pos_of_isNaN (isNaN_nanOf _)
  · simp only [fdiv, divResult, hyv, hv, orNaN_some]
    decide
  · have hunits : units (encoding y) ≠ 0 := fun h => h0 ((units_zero_iff _).1 h)
    simp only [fdiv, divResult, hyv, hv, if_neg hunits, orNaN_some, Bool.bne_false]
    exact not_pos_fround (Nat.pos_of_ne_zero hunits) (hzero.imp_right fun h => by rw [h, Nat.zero_shiftLeft])

/-- The value of a positive integer below 2^32, every rate and decimation factor among them, is positive and finite. -/
theorem float_pos {n : Nat} (h1 : 1 ≤ n) (hn : n ≤ 2 ^ 32) :
    finite (float n) = true ∧ fsign (float n) = false ∧ encoding (float n) ≠ 0 := by
  refine ⟨finite_of_encoding_le (encoding_float_le hn) (by decide), fsign_fround .., fun h0 => ?_⟩
  have := le_encoding_float h1
  unfold powEncoding at this
  omega

/-- Settles O51: the quotient is clamped, and a corner that is not above zero gives a quotient that is not either. -/
theorem coefficientsLieInTheUnitInterval : Obligations.CoefficientsLieInTheUnitInterval := by
  unfold Obligations.CoefficientsLieInTheUnitInterval
  intro fc r d
  obtain ⟨hlo, hhi⟩ := fle_alpha fc r d
  refine ⟨hlo, hhi, fun hr => by rw [alpha_of_rate_zero (by rw [hr]; rfl)]; rfl, fun hfc => ?_⟩
  by_cases hr : r.toNat = 0
  · rw [alpha_of_rate_zero hr]
    rfl
  · obtain ⟨hfin, hsign, hne⟩ := float_pos (Nat.one_le_iff_ne_zero.2 hr) r.isLt.le
    have hquotient := fdiv_not_pos (fmul_not_pos (by decide : finite fTwoPi = true) (by decide) hfc d) hfin hsign hne
    rw [alpha_eq hr]
    exact clampUnit_of_not_pos (hquotient _)

/-! ### The decimation factor (R357) -/

theorem decimation_of_zero {rout : BitVec 32} (h : rout.toNat = 0) (rin : BitVec 32) : decimation rin rout = 1 :=
  if_pos h

theorem decimation_of_pos {rout : BitVec 32} (h : rout.toNat ≠ 0) (rin : BitVec 32) :
    decimation rin rout = max 1 (rin.toNat / rout.toNat) :=
  if_neg h

/-- Settles O52: the quotient is 0 below the output rate and at least 1 from there on. -/
theorem decimationFactorIsTheClampedQuotient : Obligations.DecimationFactorIsTheClampedQuotient := by
  unfold Obligations.DecimationFactorIsTheClampedQuotient
  intro rin rout
  refine ⟨decimation_pos rin rout, fun h => decimation_of_zero (by rw [h]; rfl) rin, fun hlt => ?_, fun hne hle => ?_⟩
  · rw [decimation_of_pos (by omega), Nat.div_eq_of_lt hlt]
    rfl
  · have h0 : rout.toNat ≠ 0 := fun h => hne (BitVec.eq_of_toNat_eq h)
    have hpos : 1 ≤ rin.toNat / rout.toNat := Nat.div_pos hle (by omega)
    have hdiv := Nat.div_add_mod' rin.toNat rout.toNat
    have hmod := Nat.mod_lt rin.toNat (Nat.pos_of_ne_zero h0)
    rw [decimation_of_pos h0, max_eq_right hpos, Nat.add_mul]
    omega

/-! ### The phase (R353, R354) -/

/-- A phase in [0, 2π), with sign plus. -/
def InTurn (x : F64) : Prop := fle fZero x = true ∧ flt x fTwoPi = true ∧ fsign x = false

/-- The last two steps of `wrap`: 2π and above become 0, and so does a zero of either sign. -/
def closeTurn (r : F64) : F64 :=
  let r2 := if fle fTwoPi r then fZero else r
  if feq r2 fZero then fZero else r2

theorem inTurn_fZero : InTurn fZero := by
  unfold InTurn
  decide

theorem closeTurn_inTurn {r : F64} (hnan : isNaN r = false) (hr : 0 ≤ fkey r) : InTurn (closeTurn r) := by
  have htwoPi : isNaN fTwoPi = false := by decide
  unfold closeTurn
  by_cases hbig : fle fTwoPi r = true
  · rw [if_pos hbig, if_pos (by decide)]
    exact inTurn_fZero
  · rw [if_neg hbig]
    rw [fle_iff] at hbig
    dsimp only
    split
    case isTrue => exact inTurn_fZero
    case isFalse hzero =>
      rw [feq_iff, fkey_fZero] at hzero
      simp only [hnan, htwoPi, isNaN_fZero, true_and] at hbig hzero
      refine ⟨(fle_iff ..).2 ⟨isNaN_fZero, hnan, by rwa [fkey_fZero]⟩, (flt_iff ..).2 ⟨hnan, htwoPi, by omega⟩, ?_⟩
      exact fsign_of_fkey_pos (by omega)

/-- The exact remainder is at most 2π in magnitude. -/
theorem fmod_twoPi_yields {p : F64} (hp : finite p = true) :
    Yields (fmod p fTwoPi) fun r => encoding r ≤ encoding fTwoPi := by
  have hpos : 0 < units (encoding fTwoPi) := Nat.pos_of_ne_zero fun h => absurd ((units_zero_iff _).1 h) (by decide)
  have hres : fmodResult p fTwoPi =
      some (fround (fsign p) (units (encoding p) % units (encoding fTwoPi)) 1) := by
    simp only [fmodResult, fval_of_finite hp, fval_of_finite (by decide : finite fTwoPi = true), if_neg hpos.ne']
  refine .orNaN hres ?_
  rw [encoding_fround]
  exact roundBits_le_of_le Nat.one_pos (by rw [Nat.mul_one]; exact (Nat.mod_lt _ hpos).le)

/-- The second step of `wrap`: a negative remainder gets one turn on top. -/
def unwind (r : F64) : Draw F64 := if flt r fZero then fadd r fTwoPi else pure r

theorem unwind_yields {r : F64} (hr : encoding r ≤ encoding fTwoPi) :
    Yields (unwind r) fun z => isNaN z = false ∧ 0 ≤ fkey z := by
  unfold unwind
  have hfin : finite r = true := by
    have htwoPi : encoding fTwoPi < 2047 * 2 ^ 52 := by decide
    rw [finite_iff_encoding]
    omega
  cases hneg : flt r fZero with
  | false =>
    refine .pure ⟨isNaN_of_finite hfin, ?_⟩
    rw [← Bool.not_eq_true, flt_iff, fkey_fZero] at hneg
    simpa only [isNaN_of_finite hfin, isNaN_fZero, true_and, not_lt] using hneg
  | true =>
    rw [if_pos rfl]
    have hunits : units (encoding r) ≤ units (encoding fTwoPi) := units_strictMono.monotone hr
    have hsum := addResult_of_fin (fval_of_finite hfin) (fval_of_finite (by decide : finite fTwoPi = true))
    have hsign : fsign r = true := by
      rw [flt_iff, fkey_fZero, fkey_eq_encoding] at hneg
      obtain ⟨-, -, hkey⟩ := hneg
      split at hkey
      case isTrue h => exact h
      case isFalse => omega
    rw [hsign, show fsign fTwoPi = false by decide, if_neg (by decide), if_neg (by omega)] at hsum
    split at hsum
    · refine .orNaN hsum ⟨isNaN_fround .., ?_⟩
      rw [fkey_eq_encoding, fsign_fround]
      exact Int.natCast_nonneg _
    · exact .orNaN hsum ⟨isNaN_fZero, fkey_fZero.ge⟩

theorem wrap_of_finite {p : F64} (hp : finite p = true) :
    wrap p = fmod p fTwoPi >>= fun r0 => unwind r0 >>= fun r1 => pure (closeTurn r1) := by
  simp only [wrap, fval_of_finite hp, unwind, closeTurn]
  congr 1
  funext r0
  split <;> rfl

theorem wrap_yields_inTurn {p : F64} (hp : finite p = true) : Yields (wrap p) InTurn := by
  rw [wrap_of_finite hp]
  exact (fmod_twoPi_yields hp).bind fun _ hr =>
    (unwind_yields hr).bind fun _ ⟨hnan, hkey⟩ => .pure (closeTurn_inTurn hnan hkey)

theorem isNaN_wrap {p : F64} (hp : finite p = false) (d : Nat) : isNaN (wrap p d).1 = true := by
  rcases fval_of_not_finite hp with hv | ⟨s, hv⟩ <;> simp only [wrap, hv, isNaN_drawNaN]

/-- The phase that a block leaves has been wrapped (R354). -/
theorem chainBlock_phi (b : Build) (c : Ctx) (dsp : Dsp) (xs : List Cplx) (d : Nat) :
    ∃ p e, (chainBlock b c dsp xs d).1.1.phi = (wrap p e).1 := ⟨_, _, rfl⟩

/-- Settles O53: a block's phase is that of a finite or of another angle. -/
theorem phaseIsWrappedIntoOneTurn : Obligations.PhaseIsWrappedIntoOneTurn := by
  unfold Obligations.PhaseIsWrappedIntoOneTurn
  have hfinite (p : F64) (d : Nat) (hp : finite p = true) : (wrap p d).2 = d ∧ InTurn (wrap p d).1 := by
    obtain ⟨z, hrun, hz⟩ := wrap_yields_inTurn hp
    rw [hrun]
    exact ⟨rfl, hz⟩
  refine ⟨hfinite, fun p d hp => isNaN_wrap hp d, fun b c dsp xs d => ?_⟩
  obtain ⟨p, e, hphi⟩ := chainBlock_phi b c dsp xs d
  dsimp only
  rw [hphi]
  cases hp : finite p with
  | false => exact .inl (isNaN_wrap hp e)
  | true =>
    obtain ⟨-, hlo, hhi, -⟩ := hfinite p e hp
    exact .inr ⟨hlo, hhi⟩

end Sys2Proof.Machine
end

section
/-! PROOF. Silence through the chain (R402): from a fresh DSP state every stage turns zeros into exactly +0.0. A product
of zero with a value of unknown sign can be -0.0; the sum that follows it in each stage makes it +0.0 again. -/

namespace Sys2Proof.Machine

/-! ### Computations with one result -/

theorem eq_pure_of_yields {α : Type} {x : Draw α} {z : α} (h : Yields x (· = z)) : x = pure z := by
  obtain ⟨_, hrun, rfl⟩ := h
  exact funext hrun

/-- A sequence whose second part has one result for whatever the first part can give. -/
theorem Yields.bind_eq_pure {α β : Type} {P : α → Prop} {x : Draw α} {f : α → Draw β} {w : β} (hx : Yields x P)
    (hf : ∀ z, P z → f z = Pure.pure w) : x >>= f = Pure.pure w :=
  eq_pure_of_yields (hx.bind fun z hz => hf z hz ▸ .pure rfl)

/-! ### Arithmetic at +0.0 (R15) -/

theorem finite_fZero : finite fZero = true := by decide
theorem fsign_fZero : fsign fZero = false := by decide

theorem fround_zero {d : Nat} (hd : 0 < d) : fround false 0 d = fZero := by
  rw [fround, roundBits_zero hd]
  decide

theorem units_encoding_fZero : units (encoding fZero) = 0 := (units_zero_iff _).2 (by decide)

theorem fmul_comm (x y : F64) : fmul x y = fmul y x := by
  have hres : mulResult x y = mulResult y x := by
    unfold mulResult
    cases fval x <;> cases fval y <;> simp only [bne_comm, Nat.mul_comm]
  rw [fmul, hres, fmul]

theorem fmul_fZero {x : F64} (hx : finite x = true) (hs : fsign x = false) : fmul x fZero = pure fZero := by
  funext d
  rw [fmul_of_finite hx finite_fZero, units_encoding_fZero, Nat.mul_zero, hs, fsign_fZero, bne_self_eq_false,
    fround_zero (one_shiftLeft_pos _)]
  rfl

theorem fZero_fmul {x : F64} (hx : finite x = true) (hs : fsign x = false) : fmul fZero x = pure fZero := by
  rw [fmul_comm, fmul_fZero hx hs]

theorem fZero_fdiv {x : F64} (hx : finite x = true) (hs : fsign x = false) (h0 : encoding x ≠ 0) :
    fdiv fZero x = pure fZero := by
  funext d
  have hpos : 0 < units (encoding x) := Nat.pos_of_ne_zero fun h => h0 ((units_zero_iff _).1 h)
  rw [fdiv_of_finite finite_fZero hx h0, units_encoding_fZero, Nat.zero_shiftLeft, hs, fsign_fZero,
    bne_self_eq_false, fround_zero hpos]
  rfl

/-- A zero of either sign added to +0.0 gives +0.0. -/
theorem fZero_fadd {x : F64} (hx : IsInt x 0) : fadd fZero x = pure fZero := by
  obtain ⟨s, hv⟩ := (isInt_zero_iff x).1 hx
  have hres : addResult fZero x = some fZero := by
    rw [addResult_of_fin fval_fZero hv]
    cases s
    · simp only [if_true, fround_zero Nat.one_pos]
    · rfl
  rw [fadd, hres]
  rfl

theorem fZero_fsub {x : F64} (hx : IsInt x 0) : fsub fZero x = pure fZero :=
  fZero_fadd hx.fneg

theorem fsqrt_fZero : fsqrt fZero = pure fZero := by
  have hres : sqrtResult fZero = some fZero := by decide
  rw [fsqrt, hres]
  rfl

/-- The difference of +0.0 and a finite value is finite. -/
theorem fZero_fsub_yields_finite {x : F64} (hx : finite x = true) : Yields (fsub fZero x) (finite · = true) := by
  have hfin (s : Bool) : finite (fround s (units (encoding x)) 1) = true := by
    rw [finite_iff_encoding] at hx ⊢
    rw [encoding_fround]
    exact (roundBits_le_of_le Nat.one_pos (Nat.mul_one _).ge).trans_lt hx
  have hneg : finite (fneg x) = true := by rwa [finite_iff_encoding, encoding_fneg, ← finite_iff_encoding]
  have hres := addResult_of_fin fval_fZero (fval_of_finite hneg)
  rw [encoding_fneg, Nat.zero_add, Nat.sub_zero, if_neg (Nat.not_lt_zero _)] at hres
  split at hres
  · exact .orNaN hres (hfin _)
  · split at hres
    · exact .orNaN hres (hfin _)
    · exact .orNaN hres finite_fZero

/-! ### The stages on zeros (R352, R356, R365, R366, R375, R381) -/

/-- The one-pole update of +0.0 by a zero of either sign is +0.0. -/
theorem onePole_zero {a x : F64} (ha : finite a = true) (hx : IsInt x 0) : onePole a fZero x = pure fZero :=
  (fsub_yields_isInt hx isInt_fZero (by decide)).bind_eq_pure fun _ hd =>
    (fmul_yields_zero ha hd).bind_eq_pure fun _ hm => fZero_fadd hm

theorem channelFilter_zero {a : F64} {t : Cplx} (ha : finite a = true) (ht : IsReal t 0) :
    channelFilter a cZero t = pure cZero := by
  obtain ⟨hre, him⟩ := ht
  have hstate : cZero.re = fZero ∧ cZero.im = fZero := ⟨rfl, rfl⟩
  simp only [channelFilter, hstate, onePole_zero ha hre, onePole_zero ha him, pure_bind]
  rfl

/-- Zero times a finite factor is zero, with signs that depend on the factor's. -/
theorem zero_cmul_yields_isReal {z w : Cplx} (hz : IsReal z 0) (hre : finite w.re = true) (him : finite w.im = true) :
    Yields (cmul z w) (IsReal · 0) := by
  have hmul {x y : F64} (hx : IsInt x 0) (hy : finite y = true) : Yields (fmul x y) (IsInt · 0) :=
    fmul_comm y x ▸ fmul_yields_zero hy hx
  exact (hmul hz.1 hre).bind fun _ hrr =>
    (hmul hz.2 him).bind fun _ hii =>
    (fsub_yields_isInt hrr hii (by decide)).bind fun _ hre' =>
    (hmul hz.1 him).bind fun _ hri =>
    (hmul hz.2 hre).bind fun _ hir =>
    (fadd_yields_isInt hri hir (by decide)).bind fun _ him' => .pure ⟨hre', him'⟩

/-- The NCO turns a zero by a finite angle, which leaves it a zero. -/
theorem ncoMix_yields_isReal {step : F64} {i : Nat} (hstep : encoding step ≤ powEncoding 64) (hi : i ≤ 2 ^ 20) :
    Yields (ncoMix fZero step i cZero) (IsReal · 0) := by
  refine Yields.bind (encoding_fmul_le hstep (encoding_float_le hi) (by decide) (by decide)) fun p hp =>
    (fZero_fsub_yields_finite (finite_of_encoding_le hp (by decide))).bind fun th hth =>
    Yields.bind (cos64_of_finite hth) fun co ⟨hclo, hchi⟩ =>
    Yields.bind (sin64_of_finite hth) fun si ⟨hslo, hshi⟩ => ?_
  exact zero_cmul_yields_isReal isReal_cZero (finite_of_fle_one hclo hchi) (finite_of_fle_one hslo hshi)

theorem angle_zero {z : Cplx} (hz : IsReal z 0) : angle z = pure fZero := by
  simp only [angle, hz.1.feq_fZero, hz.2.feq_fZero, Bool.and_self, if_true]

theorem disc_zero : disc cZero cZero = pure fZero := by
  refine (zero_cmul_yields_isReal isReal_cZero (by decide) (by decide)).bind_eq_pure fun z hz => ?_
  rw [angle_zero hz, pure_bind]
  exact fmul_fZero (by decide) (by decide)

theorem cadd_zero : cadd cZero cZero = pure cZero := by
  have hre : fadd cZero.re cZero.re = pure fZero := fZero_fadd isInt_fZero
  have him : fadd cZero.im cZero.im = pure fZero := fZero_fadd isInt_fZero
  simp only [cadd, hre, him, pure_bind]
  rfl

theorem dcAverage_zero : dcAverage fZero fZero = pure fZero := by
  have havg : fmul f0p995 fZero = pure fZero := fmul_fZero (by decide) (by decide)
  have hnew : fmul f0p005 fZero = pure fZero := fmul_fZero (by decide) (by decide)
  simp only [dcAverage, havg, hnew, fZero_fadd isInt_fZero, pure_bind]

theorem magnitude_zero : magnitude cZero = pure fZero := by
  have hre : fmul cZero.re cZero.re = pure fZero := fmul_fZero finite_fZero fsign_fZero
  have him : fmul cZero.im cZero.im = pure fZero := fmul_fZero finite_fZero fsign_fZero
  simp only [magnitude, hre, him, fZero_fadd isInt_fZero, fsqrt_fZero, pure_bind]

/-! ### A silent block -/

/-- A fresh DSP state with `w` samples in the WFM group. -/
def silentDsp (c : Ctx) (w : Nat) : Dsp := { fresh c.inRate c.outRate with wcnt := w }

/-- The loop of R400 in silence: `w` and `n` samples in the groups, and `m` outputs of +0.0. -/
def silentLoop (c : Ctx) (w n m : Nat) : Loop :=
  { dsp := silentDsp c w, acc := cZero, cnt := n, outs := List.replicate m fZero }

@[simp] theorem silentDsp_phi (c : Ctx) (w : Nat) : (silentDsp c w).phi = fZero := rfl
@[simp] theorem silentDsp_ch (c : Ctx) (w : Nat) : (silentDsp c w).ch = cZero := rfl
@[simp] theorem silentDsp_prev (c : Ctx) (w : Nat) : (silentDsp c w).prev = cZero := rfl
@[simp] theorem silentDsp_de (c : Ctx) (w : Nat) : (silentDsp c w).de = fZero := rfl
@[simp] theorem silentDsp_dcAm (c : Ctx) (w : Nat) : (silentDsp c w).dcAm = fZero := rfl
@[simp] theorem silentDsp_dcWfm (c : Ctx) (w : Nat) : (silentDsp c w).dcWfm = fZero := rfl
@[simp] theorem silentDsp_post (c : Ctx) (w : Nat) : (silentDsp c w).post = fZero := rfl
@[simp] theorem silentDsp_wacc (c : Ctx) (w : Nat) : (silentDsp c w).wacc = fZero := rfl
@[simp] theorem silentDsp_wcnt (c : Ctx) (w : Nat) : (silentDsp c w).wcnt = w := rfl
@[simp] theorem silentLoop_dsp (c : Ctx) (w n m : Nat) : (silentLoop c w n m).dsp = silentDsp c w := rfl
@[simp] theorem silentLoop_acc (c : Ctx) (w n m : Nat) : (silentLoop c w n m).acc = cZero := rfl
@[simp] theorem silentLoop_cnt (c : Ctx) (w n m : Nat) : (silentLoop c w n m).cnt = n := rfl

/-- What the values of a block must be for silence to stay: a volume that does not turn +0.0 into -0.0 or a NaN, and
stages whose products with zero are zeros. -/
structure Quiet (c : Ctx) (k : Coeffs) : Prop where
  volume : finite c.volume = true
  sign : fsign c.volume = false
  step : encoding k.step ≤ powEncoding 64
  aCh : finite k.aCh = true
  aDe : finite k.aDe = true
  aA : finite k.aA = true
  decim : 1 ≤ k.decim
  decim_le : k.decim ≤ 2 ^ 32

theorem Quiet.gain_zero {c : Ctx} {k : Coeffs} (h : Quiet c k) : gain c fZero = pure fZero := by
  unfold gain
  split
  · rfl
  · exact fZero_fmul h.volume h.sign

/-- The mean of a group of zeros (R358, R382). -/
theorem Quiet.mean_zero {c : Ctx} {k : Coeffs} (h : Quiet c k) : fdiv fZero (float k.decim) = pure fZero := by
  obtain ⟨hfin, hsign, hne⟩ := float_pos h.decim h.decim_le
  exact fZero_fdiv hfin hsign hne

theorem demod_zero (m : Mode) (c : Ctx) (w : Nat) : demod m (silentDsp c w) cZero = pure (silentDsp c w, fZero) := by
  cases m with
  | am =>
    simp only [demod, demodAm, magnitude_zero, silentDsp_dcAm, dcAverage_zero, fZero_fsub isInt_fZero, pure_bind]
    rfl
  | nfm =>
    simp only [demod, demodNfm, silentDsp_prev, disc_zero, pure_bind]
    rfl
  | lsb | usb =>
    have hdouble : fmul cZero.re fTwo = pure fZero := fZero_fmul (by decide) (by decide)
    simp only [demod, demodSsb, hdouble, pure_bind]
  | off | wfm => rfl

theorem Quiet.postFilter_zero {c : Ctx} {k : Coeffs} (h : Quiet c k) (w : Nat) :
    postFilter c k.aA (silentDsp c w) fZero = pure (silentDsp c w, fZero) := by
  have hclamp : clamp fZero fMinusOne fOne = fZero := by decide
  simp only [postFilter, silentDsp_post, onePole_zero h.aA isInt_fZero, isNaN_fZero, Bool.false_eq_true, if_false,
    hclamp, h.gain_zero, pure_bind]
  rfl

theorem Quiet.demodAveraged_zero {c : Ctx} {k : Coeffs} (h : Quiet c k) (hm : c.mode ≠ .wfm) (w : Nat) :
    demodAveraged c k (silentDsp c w) cZero = pure (silentDsp c w, fZero) := by
  by_cases hoff : c.mode = .off
  · exact demodAveraged_of_off hoff ..
  · rw [demodAveraged_of_demod hm hoff, demod_zero, pure_bind]
    exact h.postFilter_zero w

theorem Quiet.wfmOut_zero {c : Ctx} {k : Coeffs} (h : Quiet c k) (w : Nat) :
    wfmOut c (silentDsp c w) fZero = pure (silentDsp c w, fZero) := by
  have hclamp : clamp fZero fMinus0p8 f0p8 = fZero := by decide
  simp only [wfmOut, silentDsp_dcWfm, dcAverage_zero, fZero_fsub isInt_fZero, hclamp, h.gain_zero, pure_bind]
  rfl

/-- The non-WFM path: the sample joins its group, or closes it with an output of +0.0. -/
theorem Quiet.averagedSample_zero {c : Ctx} {k : Coeffs} (h : Quiet c k) (hm : c.mode ≠ .wfm) (w n m : Nat) :
    ∃ n' m', averagedSample c k (silentLoop c w n m) = pure (silentLoop c w n' m') := by
  have hre : fdiv cZero.re (float k.decim) = pure fZero := h.mean_zero
  have him : fdiv cZero.im (float k.decim) = pure fZero := h.mean_zero
  have hdemod : demodAveraged c k (silentDsp c w) ⟨fZero, fZero⟩ = pure (silentDsp c w, fZero) :=
    h.demodAveraged_zero hm w
  simp only [averagedSample, silentLoop_acc, silentLoop_dsp, silentLoop_cnt, silentDsp_ch, cadd_zero, hre, him, hdemod,
    pure_bind]
  split
  · exact ⟨0, m + 1, rfl⟩
  · exact ⟨n + 1, m, rfl⟩

/-- The WFM path: the same with the group in the DSP state. -/
theorem Quiet.wfmSample_zero {c : Ctx} {k : Coeffs} (h : Quiet c k) (w n m : Nat) :
    ∃ w' m', wfmSample c k (silentLoop c w n m) = pure (silentLoop c w' n m') := by
  have hscale : fmul fZero fFour = pure fZero := fZero_fmul (by decide) (by decide)
  simp only [wfmSample, silentLoop_dsp, silentDsp_ch, silentDsp_prev, silentDsp_de, silentDsp_wacc, silentDsp_wcnt,
    disc_zero, onePole_zero h.aDe isInt_fZero, fZero_fadd isInt_fZero, h.mean_zero, hscale, pure_bind]
  split
  · refine ⟨0, m + 1, ?_⟩
    show wfmOut c (silentDsp c (w + 1)) fZero >>= _ = _
    rw [h.wfmOut_zero, pure_bind]
    rfl
  · exact ⟨w + 1, m, rfl⟩

/-- The path of the mode, after the channel filter (R350). -/
def modePath (c : Ctx) (k : Coeffs) (l : Loop) : Draw Loop :=
  if c.mode = .wfm then wfmSample c k l else averagedSample c k l

theorem chainSample_eq (c : Ctx) (k : Coeffs) (i : Nat) (x : Cplx) (l : Loop) :
    chainSample c k i x l =
      ncoMix l.dsp.phi k.step i x >>= fun t => channelFilter k.aCh l.dsp.ch t >>= fun ch =>
        modePath c k { l with dsp := { l.dsp with ch := ch } } := by
  unfold chainSample modePath
  cases c.mode <;> rfl

theorem Quiet.modePath_zero {c : Ctx} {k : Coeffs} (h : Quiet c k) (w n m : Nat) :
    ∃ w' n' m', modePath c k (silentLoop c w n m) = pure (silentLoop c w' n' m') := by
  unfold modePath
  split
  case isTrue =>
    obtain ⟨w', m', e⟩ := h.wfmSample_zero w n m
    exact ⟨w', n, m', e⟩
  case isFalse hm => exact ⟨w, h.averagedSample_zero hm w n m⟩

/-- A sample of zero keeps the loop silent: the NCO and the channel filter give zero to the path of the mode. -/
theorem Quiet.chainSample_zero {c : Ctx} {k : Coeffs} (h : Quiet c k) {i : Nat} (hi : i ≤ 2 ^ 20) (w n m : Nat) :
    ∃ w' n' m', chainSample c k i cZero (silentLoop c w n m) = pure (silentLoop c w' n' m') := by
  obtain ⟨w', n', m', e⟩ := h.modePath_zero w n m
  refine ⟨w', n', m', ?_⟩
  rw [chainSample_eq, silentLoop_dsp, silentDsp_phi, silentDsp_ch]
  refine (ncoMix_yields_isReal h.step hi).bind_eq_pure fun t ht => ?_
  rw [channelFilter_zero h.aCh ht, pure_bind]
  exact e

theorem decimation_le (rin rout : BitVec 32) : decimation rin rout ≤ 2 ^ 32 := by
  have hdiv : rin.toNat / rout.toNat ≤ rin.toNat := Nat.div_le_self ..
  by_cases h : rout.toNat = 0
  · rw [decimation_of_zero h]
    decide
  · rw [decimation_of_pos h]
    omega

theorem finite_alpha (fc : F64) (r : BitVec 32) (d : Nat) : finite (alpha fc r d).1 = true :=
  finite_of_fle finite_fZero (by decide) (fle_alpha fc r d).1 (fle_alpha fc r d).2

/-- A value between -2^64 and 2^64. -/
theorem encoding_le_of_flt {x : F64} (hlo : flt ⟨0xC3F0000000000000#64⟩ x = true)
    (hhi : flt x ⟨0x43F0000000000000#64⟩ = true) : encoding x ≤ powEncoding 64 := by
  have hneg : fkey ⟨0xC3F0000000000000#64⟩ = -(powEncoding 64 : Int) := by decide
  have hpos : fkey ⟨0x43F0000000000000#64⟩ = powEncoding 64 := by decide
  rw [flt_iff, hneg] at hlo
  rw [flt_iff, hpos] at hhi
  rw [← natAbs_fkey]
  omega

theorem coeffs_quiet {c : Ctx} {d : Nat} (hvol : finite c.volume = true) (hsign : fsign c.volume = false)
    (hlo : flt ⟨0xC3F0000000000000#64⟩ (coeffs c d).1.step = true)
    (hhi : flt (coeffs c d).1.step ⟨0x43F0000000000000#64⟩ = true) : Quiet c (coeffs c d).1 where
  volume := hvol
  sign := hsign
  step := encoding_le_of_flt hlo hhi
  aCh := finite_alpha ..
  aDe := finite_alpha ..
  aA := finite_alpha ..
  decim := decimation_pos ..
  decim_le := decimation_le ..

theorem loopStart_fresh (b : Build) (c : Ctx) : loopStart b c (fresh c.inRate c.outRate) = silentLoop c 0 0 0 := by
  unfold loopStart
  obtain e | e := blockStart_cases b c (fresh c.inRate c.outRate) <;> rw [e] <;> rfl

/-- Settles O54: the loop is silent before every sample of the block, and so after the last one. -/
theorem silentBlockStaysSilent : Obligations.SilentBlockStaysSilent := by
  unfold Obligations.SilentBlockStaysSilent
  intro b c n d hn hvol hsign hlo hhi
  have hquiet := coeffs_quiet hvol hsign hlo hhi
  obtain ⟨phi, l, e, hl⟩ := chainBlock_preserves (xs := List.replicate n cZero) (d := d)
    (P := fun i l => i ≤ n → ∃ w j m, l = silentLoop c w j m) (fun _ => ⟨0, 0, 0, loopStart_fresh b c⟩)
    fun i x l e hx hl hi => by
      obtain ⟨w, j, m, rfl⟩ := hl (Nat.le_of_succ_le hi)
      obtain ⟨w', j', m', e'⟩ := hquiet.chainSample_zero (i := i) (by omega) w j m
      rw [List.eq_of_mem_replicate hx, e']
      exact ⟨w', j', m', rfl⟩
  obtain ⟨w, j, m, rfl⟩ := hl List.length_replicate.le
  dsimp only
  rw [e]
  exact ⟨fun o ho => List.eq_of_mem_replicate (List.mem_reverse.1 ho), rfl⟩

end Sys2Proof.Machine
end

section
/-! PROOF. Command issue: the order of its checks and what a `CMD` write leaves (R450, R451, R601); and the engine on
what was latched: the word's command (R453), `NOP` (R456), and a pending `PROCESS` taken to its end (R454, R464). -/

namespace Sys2Proof.Machine

/-! ### The issue check, format by format (R451) -/

/-- `OP` selects the format that is decoded, and only a `PROCESS` has a value check besides (R156, R157). -/
theorem decode_cases (w : Word) :
    (0x6 ≤ (w.extractLsb' 0 4).toNat ∧ decode w = .error .illegalOp) ∨
    ((w.extractLsb' 0 4).toNat = 1 ∧ decode w = decodeProcess w) ∨
    ((w.extractLsb' 0 4).toNat = 5 ∧ decode w = decodeWingen w) ∨
    ((w.extractLsb' 0 4).toNat ∈ [0, 2, 3, 4] ∧
      ∃ i : Instr, (∀ b, i.wellFormed b = true) ∧ decode w = decodeBare w i) := by
  unfold decode
  split
  case h_1 hop => exact .inr (.inr (.inr ⟨by simp [hop], .nop, fun _ => rfl, rfl⟩))
  case h_2 hop => exact .inr (.inl ⟨hop, rfl⟩)
  case h_3 hop => exact .inr (.inr (.inr ⟨by simp [hop], .reinit, fun _ => rfl, rfl⟩))
  case h_4 hop => exact .inr (.inr (.inr ⟨by simp [hop], .iqClear, fun _ => rfl, rfl⟩))
  case h_5 hop => exact .inr (.inr (.inr ⟨by simp [hop], .audClear, fun _ => rfl, rfl⟩))
  case h_6 hop => exact .inr (.inr (.inl ⟨hop, rfl⟩))
  case h_7 h0 h1 h2 h3 h4 h5 => exact .inl ⟨by grind, rfl⟩

theorem issueCheck_of_busy {s : State} (hb : s.busy = true) (v : Word) : issueCheck v s = some .busy := if_pos hb

theorem issueCheck_of_error {v : Word} {s : State} {e : CmdErr} (hb : s.busy = false) (h : decode v = .error e) :
    issueCheck v s = some e := by
  simp [issueCheck, hb, h]

theorem issueCheck_of_ok {v : Word} {s : State} {i : Instr} (hb : s.busy = false) (h : decode v = .ok i) :
    issueCheck v s = if i.wellFormed s.build then none else some .nRange := by
  simp [issueCheck, hb, h]

theorem issueCheck_of_bare {v : Word} {s : State} {i : Instr} (hb : s.busy = false) (h : decode v = decodeBare v i)
    (hi : i.wellFormed s.build = true) :
    issueCheck v s = if v.extractLsb' 4 60 ≠ 0#60 then some .reserved else none := by
  unfold decodeBare at h
  by_cases hres : v.extractLsb' 4 60 = 0#60
  · rw [if_pos hres] at h
    rw [issueCheck_of_ok hb h, if_pos hi, if_neg (not_not_intro hres)]
  · rw [if_neg hres] at h
    rw [issueCheck_of_error hb h, if_pos hres]

theorem wellFormed_process_iff (b : Build) (n : BitVec 20) (snap : Bool) :
    (Instr.process n snap).wellFormed b = true ↔ n.toNat ≤ b.maxBlock := by
  rw [Instr.wellFormed, decide_eq_true_iff]

theorem issueCheck_of_process {v : Word} {s : State} (hb : s.busy = false) (h : decode v = decodeProcess v) :
    issueCheck v s =
      if v.extractLsb' 32 32 ≠ 0#32 ∨ v.extractLsb' 5 7 ≠ 0#7 then some .reserved
      else if s.build.maxBlock < (v.extractLsb' 12 20).toNat then some .nRange
      else none := by
  unfold decodeProcess at h
  by_cases hres : v.extractLsb' 32 32 = 0#32 ∧ v.extractLsb' 5 7 = 0#7
  · rw [if_pos hres] at h
    obtain ⟨hhi, hmid⟩ := hres
    simp only [issueCheck_of_ok hb h, wellFormed_process_iff, hhi, hmid, ne_eq, not_true_eq_false, or_self, if_false,
      ← Nat.not_lt, ite_not]
  · rw [if_neg hres] at h
    rw [issueCheck_of_error hb h, if_pos (Decidable.not_and_iff_or_not.mp hres)]

theorem issueCheck_of_wingen {v : Word} {s : State} (hb : s.busy = false) (h : decode v = decodeWingen v) :
    issueCheck v s =
      if v.extractLsb' 6 58 ≠ 0#58 then some .reserved
      else if 1 < (v.extractLsb' 4 2).toNat then some .wtype
      else none := by
  unfold decodeWingen at h
  by_cases hres : v.extractLsb' 6 58 = 0#58
  · rw [if_pos hres] at h
    rw [if_neg (not_not_intro hres)]
    split at h
    case h_1 hw => rw [issueCheck_of_ok hb h, hw]; rfl
    case h_2 hw => rw [issueCheck_of_ok hb h, hw]; rfl
    case h_3 h0 h1 => rw [issueCheck_of_error hb h, if_pos (Nat.lt_of_le_of_ne (Nat.pos_of_ne_zero h0) (Ne.symm h1))]
  · rw [if_neg hres] at h
    rw [issueCheck_of_error hb h, if_pos hres]

/-- Settles O5: of the checks listed after the opcode's, those of the other formats do not apply. -/
theorem issueCheckFollowsItsOrder : Obligations.IssueCheckFollowsItsOrder := by
  unfold Obligations.IssueCheckFollowsItsOrder
  intro v s
  by_cases hs : s.seq = .idle
  · have hb := busy_idle hs
    rw [if_neg (not_not_intro hs)]
    obtain ⟨hop, hd⟩ | ⟨hop, hd⟩ | ⟨hop, hd⟩ | ⟨hop, i, hi, hd⟩ := decode_cases v
    · rw [if_pos hop, issueCheck_of_error hb hd]
    · simp [issueCheck_of_process hb hd, hop]
    · simp [issueCheck_of_wingen hb hd, hop]
    · obtain ⟨hlt, hne1, hne5⟩ : (v.extractLsb' 0 4).toNat < 6 ∧ (v.extractLsb' 0 4).toNat ≠ 1 ∧
          (v.extractLsb' 0 4).toNat ≠ 5 := by grind
      rw [issueCheck_of_bare hb hd (hi _), if_neg (Nat.not_le.mpr hlt)]
      simp only [hne1, hne5, hop, false_and, true_and, if_false]
  · rw [if_pos hs, issueCheck_of_busy ((busy_iff s).mpr hs)]

/-! ### What a `CMD` write leaves (R450, R601) -/

theorem hostWrite_cmd (v : Word) (s : State) : hostWrite 0x030#22 v s = issue v s := hostWrite_of_isAt .cmd rfl rfl v s

/-- The check reads the build and the sequencer, not the last command word. -/
theorem issueCheck_lastCmd (v w : Word) (s : State) : issueCheck v { s with lastCmd := w } = issueCheck v s := rfl

theorem issue_of_some {v : Word} {s : State} {e : CmdErr} (h : issueCheck v s = some e) :
    issue v s = cmdError e { s with lastCmd := v } := by
  simp only [issue, issueCheck_lastCmd, h]

theorem issue_of_none {v : Word} {s : State} (h : issueCheck v s = none) :
    issue v s = { s with lastCmd := v, seq := .pending (latch v s) } := by
  simp only [issue, issueCheck_lastCmd, h]
  rfl

/-- Settles O6: the write is the issue, which rejects or latches. -/
theorem cmdWriteLatchesOrRejects : Obligations.CmdWriteLatchesOrRejects := by
  unfold Obligations.CmdWriteLatchesOrRejects
  intro v s
  rw [hostWrite_cmd]
  refine ⟨fun e h => ?_, fun h => ?_⟩
  · rw [issue_of_some h]
    cases e <;> rfl
  · rw [issue_of_none h]
    exact ⟨rfl, rfl⟩

/-! ### The latched word runs (R450, R453) -/

theorem decode_of_decodeTableWord {nbits w : Nat} {i : Instr} (h : decodeTableWord nbits w = some i) :
    decode (tableWord nbits w) = .ok i := by
  rw [decodeTableWord, decodeBytes_bytesOfWord] at h
  cases hd : decode (tableWord nbits w) with
  | ok j => rw [hd] at h; exact congrArg Except.ok (Option.some.inj h)
  | error e => rw [hd] at h; cases h

theorem withFetchWord_of_decode {nbits w : Nat} {i : Instr} (h : decode (tableWord nbits w) = .ok i) (s : State) :
    s.withFetchWord nbits w = { s.withTurns [] with seq := .pending (latch (tableWord nbits w) s) } := by
  rw [State.withFetchWord, h]

/-- A pending command that the engine's step finds with no turn listed is run. -/
theorem step_of_pending {s : State} {c : Ctx} {i : Instr} (hturns : s.env.turns = []) (hseq : s.seq = .pending c)
    (hf : fetch c = .ok i) : step s = exec i s :=
  (step_of_no_turns hturns).trans (engineStep_of_pending hseq hf)

/-- Settles O8: `withFetchWord` places the latched context, which stands for the word. -/
theorem latchedWordRunsItsCommand : Obligations.LatchedWordRunsItsCommand := by
  unfold Obligations.LatchedWordRunsItsCommand
  intro s nbits w i h
  have hd := decode_of_decodeTableWord h
  have hf := fetch_latch hd s
  refine ⟨hf, ?_⟩
  rw [withFetchWord_of_decode hd]
  exact step_of_pending rfl rfl hf

/-- Settles O12: `NOP` is the completion alone. -/
theorem nopOnlyCompletes : Obligations.NopOnlyCompletes := by
  unfold Obligations.NopOnlyCompletes
  intro s
  exact congrArg Host.Outcome.next (complete_eq s)

/-! ### One action of a running `PROCESS` (R464) -/

theorem step_of_running {s : State} {r : Run} (hturns : s.env.turns = []) (hseq : s.seq = .running r) :
    step s = .next (runStep r s) :=
  (step_of_no_turns hturns).trans (engineStep_of_running hseq)

theorem runStep_of_push {r : Run} (hlt : r.next < r.outs.length) (hp : r.snapPending = false) (s : State) :
    runStep r s = pushNext r s := by
  simp [runStep, hlt, hp]

theorem runStep_of_publish {r : Run} (hall : r.outs.length ≤ r.next) (hp : r.snapPending = true) (s : State) :
    runStep r s = publishSnapshot r s := by
  simp [runStep, Nat.not_lt.mpr hall, hp]

/-- With both actions enabled the draw chooses one (R466). -/
theorem runStep_of_both {r : Run} (hlt : r.next < r.outs.length) (hp : r.snapPending = true) (s : State) :
    runStep r s = pushNext r s.draw.2 ∨ runStep r s = publishSnapshot r s.draw.2 := by
  simp only [runStep, hlt, hp, if_true]
  split
  · exact .inr rfl
  · exact .inl rfl

theorem runStep_of_done {r : Run} (hall : r.outs.length ≤ r.next) (hp : r.snapPending = false) (s : State) :
    runStep r s = finishProcess r.blk.length r.outs.length s := by
  simp [runStep, Nat.not_lt.mpr hall, hp]

/-- Settles O21: the four cases of which actions are left. -/
theorem runStepTakesAnEnabledAction : Obligations.RunStepTakesAnEnabledAction := by
  unfold Obligations.RunStepTakesAnEnabledAction
  intro s r hseq hturns
  rw [step_of_running hturns hseq]
  refine ⟨fun hlt hp => ?_, fun hall hp => ?_, fun hlt hp => ?_, fun hall hp => ?_⟩
  · exact congrArg Host.Outcome.next (runStep_of_push hlt hp s)
  · exact congrArg Host.Outcome.next (runStep_of_publish hall hp s)
  · exact (runStep_of_both hlt hp s).imp (congrArg Host.Outcome.next) (congrArg Host.Outcome.next)
  · exact congrArg Host.Outcome.next (runStep_of_done hall hp s)

/-! ### A pending `PROCESS` taken to its end (R454) -/

/-- One action has taken `s` running `r` to `s'` running `r'`: one action fewer is left, and the listed turns, the I/Q
FIFO, the block and its outputs are the same. -/
structure State.Acts (s : State) (r : Run) (s' : State) (r' : Run) : Prop where
  seq : s'.seq = .running r'
  turns : s'.env.turns = s.env.turns
  iqf : s'.iqf = s.iqf
  blk : r'.blk = r.blk
  outs : r'.outs = r.outs
  left : r.actionsLeft = r'.actionsLeft + 1

theorem audPush_iqf (v : F64) (s : State) : (audPush v s).iqf = s.iqf := by
  obtain ⟨_, e⟩ | ⟨_, e⟩ := audPush_cases v s <;> rw [e]
  rw [setFlag_iqf]

theorem pushNext_acts {r : Run} (hlt : r.next < r.outs.length) (s : State) :
    s.Acts r (pushNext r s) { r with next := r.next + 1 } := by
  obtain ⟨_, hseq, henv⟩ := pushNext_frame r s
  exact ⟨hseq, congrArg Env.turns henv, audPush_iqf _ _, rfl, rfl, actionsLeft_pushNext hlt⟩

theorem publishSnapshot_acts {r : Run} (hp : r.snapPending = true) (s : State) :
    s.Acts r (publishSnapshot r s) { r with snapPending := false } :=
  ⟨rfl, rfl, rfl, rfl, rfl, actionsLeft_publishSnapshot hp⟩

theorem State.Acts.of_draw {s s' : State} {r r' : Run} (h : s.draw.2.Acts r s' r') : s.Acts r s' r' := { h with }

/-- A run step completes the run when no action is left, and takes one of those left otherwise (R464). -/
theorem runStep_acts_or_finishes (r : Run) (s : State) :
    (r.actionsLeft = 0 ∧ runStep r s = finishProcess r.blk.length r.outs.length s) ∨
    ∃ r', s.Acts r (runStep r s) r' := by
  obtain ⟨hall, hp, e⟩ | ⟨hlt, s', rfl | rfl, e⟩ | ⟨hp, s', rfl | rfl, e⟩ := runStep_cases r s <;> rw [e]
  · exact .inl ⟨by simp [Run.actionsLeft, hp, Nat.sub_eq_zero_of_le hall], rfl⟩
  · exact .inr ⟨_, pushNext_acts hlt _⟩
  · exact .inr ⟨_, (pushNext_acts hlt _).of_draw⟩
  · exact .inr ⟨_, publishSnapshot_acts hp _⟩
  · exact .inr ⟨_, (publishSnapshot_acts hp _).of_draw⟩

/-- A run that the engine alone runs completes when it has taken the actions left, and takes no sample more. The audio
FIFO may hold any number of samples, which `runsTo_finishProcess` does not allow. -/
theorem runsTo_finishProcess_iqf {k : Nat} {r : Run} {s : State} (hk : r.actionsLeft = k) (hseq : s.seq = .running r)
    (hturns : s.env.turns = []) :
    ∃ t, runsTo (k + 1) s (finishProcess r.blk.length r.outs.length t) ∧ t.iqf = s.iqf := by
  induction k generalizing r s with
  | zero =>
    have hstep := step_of_running hturns hseq
    obtain ⟨_, e⟩ | ⟨r', h⟩ := runStep_acts_or_finishes r s
    · exact ⟨s, runsTo_succ (hstep.trans (congrArg _ e)) rfl, rfl⟩
    · have := h.left
      omega
  | succ k ih =>
    have hstep := step_of_running hturns hseq
    obtain ⟨hnone, _⟩ | ⟨r', h⟩ := runStep_acts_or_finishes r s
    · omega
    · have hleft := h.left
      obtain ⟨t, ht, hiqf⟩ := ih (by omega) h.seq (h.turns.trans hturns)
      rw [h.blk, h.outs] at ht
      exact ⟨t, runsTo_succ hstep ht, hiqf.trans h.iqf⟩

theorem finishProcess_flag_done (n m : Nat) (s : State) : (finishProcess n m s).flag .done = true := by
  simp [finishProcess, State.flag, sourceMask, sourceBit]

/-- A block whose run begins and that the engine alone runs completes in `M` pushes, the publish of a snapshot that is
asked for, and the completion (R462, R464). -/
theorem beginRun_completes (c : Ctx) (snap : Bool) (blk : List Cplx) {s : State} (hturns : s.env.turns = []) :
    ∃ k t, k ≤ t.lastM + 2 ∧ t.lastM ≤ t.lastN ∧ runsTo k (beginRun c snap blk s) t ∧ t.seq = .idle ∧
      t.flag .done = true ∧ t.lastN = blk.length ∧ t.iqf = s.iqf := by
  obtain ⟨t, ht, hiqf⟩ := runsTo_finishProcess_iqf (s := beginRun c snap blk s) rfl rfl hturns
  refine ⟨_, _, ?_, chainBlock_outs_le .., ht, rfl, finishProcess_flag_done _ _ t, rfl, hiqf⟩
  have hsnap : snap.toNat ≤ 1 := Bool.toNat_le snap
  exact Nat.succ_le_succ (Nat.add_le_add_left hsnap _)

/-- Settles O22: one start step, at most `M + 1` actions (the pushes and the snapshot) and the completion. -/
theorem processCompletesInBoundedSteps : Obligations.ProcessCompletesInBoundedSteps := by
  unfold Obligations.ProcessCompletesInBoundedSteps
  intro s c n snap hseq hf hturns
  have hstep : step s = .next (startProcess n snap s) := step_of_pending hturns hseq hf
  obtain ⟨hnone, e⟩ | ⟨_, e⟩ := startProcess_cases n snap s <;>
    rw [e, freshOnRateChange_eq_dspForRates] at hstep
  · refine ⟨1, _, Nat.le_add_left 1 2, Nat.le_refl 0, runsTo_succ hstep rfl, rfl, finishProcess_flag_done 0 0 _,
      hnone.symm, ?_⟩
    rw [hnone]
    rfl
  · obtain ⟨k, t, hk, hm, ht, hidle, hdone, hn, hiqf⟩ := beginRun_completes (context s) snap
      (s.iqf.take (min n.toNat s.iqf.length)) (s := { s with
        dsp := dspForRates (context s) s.dsp, iqf := s.iqf.drop (min n.toNat s.iqf.length) }) hturns
    refine ⟨k + 1, t, Nat.succ_le_succ hk, hm, runsTo_succ hstep ht, hidle, hdone, ?_, hiqf⟩
    rw [hn, List.length_take, Nat.min_assoc, Nat.min_self]

end Sys2Proof.Machine
end

section
/-! PROOF. The publish of a snapshot: the line and the row read back, and the rest of the LUT memory is as it was (R510). -/

namespace Sys2Proof.Machine

/-- An RGBA32 entry reads as the low half of the word stored (R65). -/
theorem setWidth_setWidth_eq_and (v : Word) : (v.setWidth 32).setWidth 64 = v &&& 0xFFFFFFFF#64 :=
  setWidth_extractLsb'_zero v 32

/-- The longest line ends where the row begins (R101, R314). -/
theorem spectrum_end_le_wfRowBase (b : Build) : spectrumBase + 8 * b.fftN ≤ wfRowBase := by
  have hmax := (fftN_bounds b).2
  rw [spectrumBase, wfRowBase]
  omega

/-- The row is written above the line and leaves it (R510). -/
theorem spectrum_publish {s : State} {line : List F64} (row : List Word) (hm : Memory.wf s.build s.mem = true)
    (hline : line.length = s.build.fftN) {k : Nat} (hk : k < s.build.fftN) :
    (publish line row s).spectrum k = line.getD k fZero := by
  have hk' : k < line.length := hline ▸ hk
  have hend := spectrum_end_le_wfRowBase s.build
  rw [State.spectrum, publish_build, publish_mem, readWord_writeWords_other _ _ _ _ (.inl (by omega)),
    readWord_writeWords_same _ _ _ _ k (by rwa [List.length_map]) hm, List.getElem_map, List.getD_eq_getElem _ _ hk']

theorem wfRow_publish {s : State} (line : List F64) {row : List Word} (hm : Memory.wf s.build s.mem = true)
    {k : Nat} (hk : k < row.length) :
    (publish line row s).wfRow k = row.getD k 0#64 &&& 0xFFFFFFFF#64 := by
  rw [State.wfRow, publish_build, publish_mem, readWord_writeWords_same _ _ _ _ k hk (writeWords_wf _ _ _ _ hm),
    setWidth_setWidth_eq_and, List.getD_eq_getElem _ _ hk]

theorem readByte_publish_other {line : List F64} {row : List Word} (s : State) {a : Nat}
    (hspec : ¬ (spectrumBase ≤ a ∧ a < spectrumBase + 8 * line.length))
    (hrow : ¬ (wfRowBase ≤ a ∧ a < wfRowBase + 8 * row.length)) :
    readByte s.build (publish line row s).mem a = readByte s.build s.mem a := by
  rw [publish_mem, readByte_writeWords_other _ row _ _ (by omega),
    readByte_writeWords_other _ _ _ _ (by rw [List.length_map]; omega)]

/-- Settles O55: both LUTs read back, the bytes outside them are kept, and the rest of the state is `publish` itself. -/
theorem publishedSnapshotReadsBack : Obligations.PublishedSnapshotReadsBack := by
  unfold Obligations.PublishedSnapshotReadsBack
  intro s line row hm hline hrow
  refine ⟨fun k hk => ⟨spectrum_publish row hm hline hk, wfRow_publish line hm (hrow ▸ hk)⟩, ?_, rfl⟩
  intro a hspec hwf
  exact readByte_publish_other s (hline.symm ▸ hspec) (hrow.symm ▸ hwf)

end Sys2Proof.Machine
end

section
/-! PROOF. No step stops the machine while its sequencer holds a legal command (R600, R612), and the interrupt line is
the OR of the enabled flags (R610). -/

namespace Sys2Proof.Machine

/-! ### Every step goes to a next state (R600, R612) -/

/-- No command has a stop of its own, in any state (R453). -/
theorem exec_next (i : Instr) (s : State) : ∃ t, exec i s = .next t := by
  cases i with
  | nop => exact ⟨_, rfl⟩
  | process n snap => exact ⟨_, rfl⟩
  | reinit => exact ⟨_, rfl⟩
  | iqClear => exact ⟨_, rfl⟩
  | audClear => exact ⟨_, rfl⟩
  | wingenHann => exact ⟨_, rfl⟩
  | wingenHamming => exact ⟨_, rfl⟩

/-- Of the invariant only the sequencer's clause matters: a legal pending context is a command, so it raises no fault. -/
theorem engineStep_next_of_seqLegal {s : State} (h : seqLegal s.build s.seq) : ∃ t, engineStep s = .next t := by
  cases hs : s.seq with
  | idle => exact ⟨s, engineStep_of_idle hs⟩
  | pending c =>
    rw [hs] at h
    obtain ⟨i, hf, -⟩ := h
    obtain ⟨t, ht⟩ := exec_next i s
    exact ⟨t, (engineStep_of_pending hs hf).trans ht⟩
  | running r => exact ⟨runStep r s, engineStep_of_running hs⟩

/-- Settles O11: an outside step has no stop, and the engine's has none on a legal sequencer, which the turn taken
leaves as it is. -/
theorem invariantStatesAlwaysStepOn : Obligations.InvariantStatesAlwaysStepOn := by
  unfold Obligations.InvariantStatesAlwaysStepOn
  intro s h
  obtain ⟨_, e⟩ | ⟨ts, _, e⟩ | ⟨ev, ts, _, e⟩ := step_cases s <;> rw [e]
  · exact engineStep_next_of_seqLegal h.seq
  · exact engineStep_next_of_seqLegal (withTurns_inv ts h).seq
  · exact ⟨outsideStep ev (s.withTurns ts), rfl⟩

/-! ### The interrupt line (R610) -/

/-- Each of the seven bits of the flags and of the enables is that of a source (R40, R611). -/
theorem exists_source_of_lt {k : Nat} (hk : k < 7) : ∃ f : Source, sourceBit f - 1 = k :=
  match k, hk with
  | 0, _ => ⟨.done, rfl⟩
  | 1, _ => ⟨.wfDirty, rfl⟩
  | 2, _ => ⟨.iqOvf, rfl⟩
  | 3, _ => ⟨.audOvf, rfl⟩
  | 4, _ => ⟨.audUnf, rfl⟩
  | 5, _ => ⟨.cmdErr, rfl⟩
  | 6, _ => ⟨.busErr, rfl⟩

theorem irq_iff_exists_bit (s : State) :
    s.irq = true ↔ ∃ k < 7, s.flags.getLsbD k = true ∧ s.irqEn.getLsbD k = true := by
  simp [State.irq, BitVec.eq_of_getLsbD_eq_iff]

/-- Settles O42: the bits at which the flags and the enables can meet are those of the sources. -/
theorem interruptLineIsTheOrOfEnabledFlags : Obligations.InterruptLineIsTheOrOfEnabledFlags := by
  unfold Obligations.InterruptLineIsTheOrOfEnabledFlags
  intro s
  rw [irq_iff_exists_bit]
  constructor
  · rintro ⟨k, hk, hflag, henabled⟩
    obtain ⟨f, rfl⟩ := exists_source_of_lt hk
    exact ⟨f, hflag, henabled⟩
  · rintro ⟨f, hflag, henabled⟩
    exact ⟨sourceBit f - 1, BitVec.lt_of_getLsbD hflag, hflag, henabled⟩

end Sys2Proof.Machine
end

section
/-! PROOF. The reset input (R700, R701): an empty list of written bytes reads as the reset content of each LUT, and with
it every element of the block at its reset value; the state right after reset has the invariant. -/

namespace Sys2Proof.Machine

/-! ### The reset content of the LUTs, byte by byte (R65, R101) -/

theorem resetByte_palette (b : Build) {i j : Nat} (hi : i < 256) (hj : j < 8) :
    resetByte b (paletteBase + 8 * i + j) = byteOf (grayscale i) j := by
  have hentry : (paletteBase + 8 * i + j - paletteBase) / 8 = i := by omega
  have hbyte : (paletteBase + 8 * i + j) % 8 = j := by rw [paletteBase]; omega
  rw [resetByte, if_pos (by omega), hentry, hbyte]

/-- `PALETTE` ends below `WIN_LUT` (R101). -/
theorem resetByte_winLut (b : Build) {k j : Nat} (hk : k < b.fftN) (hj : j < 8) :
    resetByte b (winLutBase + 8 * k + j) = byteOf (hann b k).bits j := by
  have hentry : (winLutBase + 8 * k + j - winLutBase) / 8 = k := by omega
  have hbyte : (winLutBase + 8 * k + j) % 8 = j := by rw [winLutBase]; omega
  rw [resetByte, if_neg (by rw [paletteBase, winLutBase]; omega), if_pos (by omega), hentry, hbyte]

/-- The longest `WIN_LUT` ends where `SPECTRUM` begins (R101, R314). -/
theorem resetByte_of_spectrumBase_le (b : Build) {a : Nat} (ha : spectrumBase ≤ a) : resetByte b a = 0#8 := by
  have hmax := (fftN_bounds b).2
  rw [spectrumBase] at ha
  rw [resetByte, if_neg (by rw [paletteBase]; omega), if_neg (by rw [winLutBase]; omega)]

/-! ### Entries of a LUT memory with no byte listed (R65, R105) -/

/-- Where the reset content is the bytes of a word, that word is read. -/
theorem readWord_nil {b : Build} {a : Nat} {v : Word} (h : ∀ j < 8, resetByte b (a + j) = byteOf v j) :
    readWord b [] a = v := by
  have hbytes : ((List.range 8).map fun j => readByte b [] (a + j)) = (List.range 8).map fun j => byteOf v j :=
    List.map_congr_left fun j hj => h j (List.mem_range.mp hj)
  rw [readWord, hbytes, wordOfBytes_byteOf]

theorem readWord_nil_of_spectrumBase_le (b : Build) {a : Nat} (ha : spectrumBase ≤ a) : readWord b [] a = 0#64 :=
  readWord_nil fun j _ => by
    rw [resetByte_of_spectrumBase_le b (by omega), byteOf, BitVec.extractLsb'_zero]

/-- The four bytes of an entry of the ramp do not overlap, so their OR is their sum (R507). -/
theorem grayscale_eq {i : Nat} (hi : i < 256) : grayscale i = BitVec.ofNat 64 (0xFF000000 + 0x010101 * i) := by
  have hlow : i <<< 8 ||| i = i <<< 8 + i := (Nat.shiftLeft_add_eq_or_of_lt hi i).symm
  have hmid : i <<< 16 ||| (i <<< 8 + i) = i <<< 16 + (i <<< 8 + i) :=
    (Nat.shiftLeft_add_eq_or_of_lt (by rw [Nat.shiftLeft_eq]; omega) i).symm
  have hhigh : 0xFF000000 ||| (i <<< 16 + (i <<< 8 + i)) = 0xFF000000 + (i <<< 16 + (i <<< 8 + i)) :=
    (Nat.shiftLeft_add_eq_or_of_lt (i := 24) (by simp only [Nat.shiftLeft_eq]; omega) 0xFF).symm
  rw [grayscale, Nat.or_assoc, Nat.or_assoc, hlow, hmid, hhigh]
  congr 1
  simp only [Nat.shiftLeft_eq]
  omega

/-- An entry of the ramp fits in the 32 bits that `PALETTE` shows (R65). -/
theorem setWidth_setWidth_grayscale {i : Nat} (hi : i < 256) :
    ((grayscale i).setWidth 32).setWidth 64 = grayscale i := by
  have hlt : (grayscale i).toNat < 2 ^ 32 := by
    rw [grayscale_eq hi, BitVec.toNat_ofNat]
    exact Nat.mod_lt_of_lt (by omega)
  apply BitVec.eq_of_toNat_eq
  rw [BitVec.toNat_setWidth, BitVec.toNat_setWidth, Nat.mod_eq_of_lt hlt, Nat.mod_eq_of_lt (grayscale i).isLt]

/-- Entries of `hann` are compared by their bits, so that the kernel does not run them. -/
theorem eq_of_bits_eq {x y : F64} (h : x.bits = y.bits) : x = y := congrArg F64.mk h

theorem bits_win (s : State) (k : Nat) : (s.win k).bits = readWord s.build s.mem (winLutBase + 8 * k) := rfl

section
variable {s : State} (hm : s.mem = [])
include hm

theorem win_of_mem_nil {k : Nat} (hk : k < s.build.fftN) : s.win k = hann s.build k := by
  apply eq_of_bits_eq
  rw [bits_win, hm, readWord_nil fun j hj => resetByte_winLut s.build hk hj]

theorem palette_of_mem_nil {i : Nat} (hi : i < 256) :
    s.palette i = BitVec.ofNat 64 (0xFF000000 + 0x010101 * i) := by
  rw [State.palette, hm, readWord_nil fun j hj => resetByte_palette s.build hi hj, setWidth_setWidth_grayscale hi,
    grayscale_eq hi]

theorem spectrum_of_mem_nil (k : Nat) : s.spectrum k = ⟨0#64⟩ := by
  rw [State.spectrum, hm, readWord_nil_of_spectrumBase_le _ (Nat.le_add_right _ _)]

theorem wfRow_of_mem_nil (k : Nat) : s.wfRow k = 0#64 := by
  rw [State.wfRow, hm, readWord_nil_of_spectrumBase_le _ (by rw [spectrumBase, wfRowBase]; omega)]
  rfl

end

/-! ### The reset input (R700, R701) -/

/-- `D(2048000, 48000)` (R357), what `DECIM` reads after reset. -/
theorem decimation_reset : decimation 2048000#32 48000#32 = 42 := by decide

theorem irq_of_flags_zero {s : State} (h : s.flags = 0#7) : s.irq = false := by
  simp [State.irq, h]

/-- Settles O10: the block after reset has the invariant in every build, this hardware's among them. -/
theorem resetStateHasTheInvariant : Obligations.ResetStateHasTheInvariant := by
  unfold Obligations.ResetStateHasTheInvariant
  exact resetFor_inv Build.thisHardware

/-- Settles O43: reset writes every field, it lists no byte of the LUT memory, so each LUT reads its reset content, and
it leaves the block idle, so each view shows its element. -/
theorem resetSetsEveryElement : Obligations.ResetSetsEveryElement := by
  unfold Obligations.ResetSetsEveryElement
  intro s t
  have hidle : t.seq = .idle := rfl
  have hmem : t.mem = [] := rfl
  obtain ⟨hdecim, hphase, hin, hout⟩ := (viewRegistersAreDrawnWhileBusy t).1 hidle
  have hD : decimation t.dsp.curIn t.dsp.curOut = 42 := decimation_reset
  rw [hD] at hdecim
  exact ⟨hidle, rfl, rfl, rfl, rfl, rfl, rfl, rfl, rfl, rfl, rfl, rfl, rfl, rfl, rfl, rfl, rfl, rfl, rfl, rfl, rfl, rfl,
    rfl, rfl, rfl, rfl, rfl, fun _ hk => win_of_mem_nil hmem hk,
    fun _ hi => palette_of_mem_nil hmem hi, fun k _ => ⟨spectrum_of_mem_nil hmem k, wfRow_of_mem_nil hmem k⟩,
    rfl, irq_of_flags_zero rfl, hdecim, hphase, hin, hout⟩

end Sys2Proof.Machine
end
